-- ==== Sys2Proof/Word.lean ====
section
/-! DEFINITION. The bit vectors of the machine (00_scope.md R6, R8): all values are unsigned. -/

namespace Sys2Proof

/-- A register, timer or memory cell: 8 bits (R6 REG_W, TIMER_W). -/
abbrev Byte := BitVec 8

/-- An instruction word, the index register, the program counter, a stack entry: 16 bits (R6). -/
abbrev Word := BitVec 16

/-- A memory address after masking: 12 bits, 0x000 to 0xFFF (R50), so that no other address can be written. -/
abbrev Addr := BitVec 12

/-- A 4-bit field `X`, `Y` or `N` of an instruction word (R71); as a register number 0xF is VF (R24). -/
abbrev Nibble := BitVec 4

end Sys2Proof
end

