-- ==== Sys2Proof/Syntax.lean ====
section
/-! DEFINITION. The 34 instructions of the opcode map (30_encoding.md R74), one constructor a row, in the map's order.
Operands are the fields of R71 at their own widths, and every value of a field is legal (R72). -/

namespace Sys2Proof

/-- The base CHIP-8 instruction set (R2, R74). -/
inductive Instr where
  /-- `00E0` clear display (R150). -/
  | cls
  /-- `00EE` return from subroutine (R100). -/
  | ret
  /-- `1NNN` jump (R101). -/
  | jp (nnn : Addr)
  /-- `2NNN` call subroutine (R102). -/
  | call (nnn : Addr)
  /-- `3XNN` skip if VX = NN (R103). -/
  | seImm (x : Nibble) (nn : Byte)
  /-- `4XNN` skip if VX ≠ NN (R104). -/
  | sneImm (x : Nibble) (nn : Byte)
  /-- `5XY0` skip if VX = VY (R105). -/
  | seReg (x y : Nibble)
  /-- `6XNN` load immediate (R121). -/
  | ldImm (x : Nibble) (nn : Byte)
  /-- `7XNN` add immediate (R122). -/
  | addImm (x : Nibble) (nn : Byte)
  /-- `8XY0` assign (R123). -/
  | ldReg (x y : Nibble)
  /-- `8XY1` bitwise OR (R124). -/
  | orReg (x y : Nibble)
  /-- `8XY2` bitwise AND (R125). -/
  | andReg (x y : Nibble)
  /-- `8XY3` bitwise exclusive OR (R126). -/
  | xorReg (x y : Nibble)
  /-- `8XY4` add with carry out (R127). -/
  | addReg (x y : Nibble)
  /-- `8XY5` subtract VY from VX (R128). -/
  | subReg (x y : Nibble)
  /-- `8XY6` shift right (R129). -/
  | shr (x y : Nibble)
  /-- `8XY7` subtract VX from VY (R130). -/
  | subnReg (x y : Nibble)
  /-- `8XYE` shift left (R131). -/
  | shl (x y : Nibble)
  /-- `9XY0` skip if VX ≠ VY (R106). -/
  | sneReg (x y : Nibble)
  /-- `ANNN` load index register (R140). -/
  | ldI (nnn : Addr)
  /-- `BNNN` jump to NNN + V0 (R107). -/
  | jpV0 (nnn : Addr)
  /-- `CXNN` random byte under mask (R132). -/
  | rnd (x : Nibble) (nn : Byte)
  /-- `DXYN` draw sprite (R151). -/
  | drw (x y n : Nibble)
  /-- `EX9E` skip if key pressed (R161). -/
  | skp (x : Nibble)
  /-- `EXA1` skip if key not pressed (R162). -/
  | sknp (x : Nibble)
  /-- `FX07` read delay timer (R164). -/
  | ldVxDt (x : Nibble)
  /-- `FX0A` wait for a key (R163). -/
  | ldVxK (x : Nibble)
  /-- `FX15` set delay timer (R165). -/
  | ldDtVx (x : Nibble)
  /-- `FX18` set sound timer (R166). -/
  | ldStVx (x : Nibble)
  /-- `FX1E` add register to index register (R141). -/
  | addI (x : Nibble)
  /-- `FX29` point index at font glyph (R142). -/
  | ldF (x : Nibble)
  /-- `FX33` store decimal digits (R143). -/
  | ldB (x : Nibble)
  /-- `FX55` store registers V0 to VX (R144). -/
  | storeRegs (x : Nibble)
  /-- `FX65` load registers V0 to VX (R145). -/
  | loadRegs (x : Nibble)
deriving DecidableEq, Repr

/-- The row of the opcode map an instruction stands for, by the mnemonic of spec/opcode_table.json (R82: a label). -/
def Instr.mnemonic : Instr → String
  | .cls => "CLS"
  | .ret => "RET"
  | .jp _ => "JP_NNN"
  | .call _ => "CALL_NNN"
  | .seImm _ _ => "SE_VX__NN"
  | .sneImm _ _ => "SNE_VX__NN"
  | .seReg _ _ => "SE_VX__VY"
  | .ldImm _ _ => "LD_VX__NN"
  | .addImm _ _ => "ADD_VX__NN"
  | .ldReg _ _ => "LD_VX__VY"
  | .orReg _ _ => "OR_VX__VY"
  | .andReg _ _ => "AND_VX__VY"
  | .xorReg _ _ => "XOR_VX__VY"
  | .addReg _ _ => "ADD_VX__VY"
  | .subReg _ _ => "SUB_VX__VY"
  | .shr _ _ => "SHR_VX__VY"
  | .subnReg _ _ => "SUBN_VX__VY"
  | .shl _ _ => "SHL_VX__VY"
  | .sneReg _ _ => "SNE_VX__VY"
  | .ldI _ => "LD_I__NNN"
  | .jpV0 _ => "JP_V0__NNN"
  | .rnd _ _ => "RND_VX__NN"
  | .drw _ _ _ => "DRW_VX__VY__N"
  | .skp _ => "SKP_VX"
  | .sknp _ => "SKNP_VX"
  | .ldVxDt _ => "LD_VX__DT"
  | .ldVxK _ => "LD_VX__K"
  | .ldDtVx _ => "LD_DT__VX"
  | .ldStVx _ => "LD_ST__VX"
  | .addI _ => "ADD_I__VX"
  | .ldF _ => "LD_F__VX"
  | .ldB _ => "LD_B__VX"
  | .storeRegs _ => "LD__I___VX"
  | .loadRegs _ => "LD_VX___I"

end Sys2Proof
end

