-- ==== Sys2Proof/WellFormed.lean ====
section
/-! DEFINITION. Which words are instructions: the opcode map of 30_encoding.md R74 as data, one row an instruction.
An `Instr` needs no check of its own, since each operand has exactly the width of its field (R71) and every value of it
is legal (R72). What can be ill-formed is a 16-bit word: it is an instruction exactly when a row admits it (R73), and
undefined otherwise (R80). -/

namespace Sys2Proof

/-- One row of the opcode map (R74): a word belongs to it when its bits under `mask` are `value`. -/
structure OpcodeRow where
  mask : Word
  value : Word
  mnemonic : String
deriving DecidableEq, Repr

/-- `(w & mask) == match`, the test of R73. -/
def OpcodeRow.admits (r : OpcodeRow) (w : Word) : Bool := w &&& r.mask == r.value

/-- The opcode map (R74), in the order of its table. -/
def opcodeMap : List OpcodeRow :=
  [⟨0xFFFF, 0x00E0, "CLS"⟩,
   ⟨0xFFFF, 0x00EE, "RET"⟩,
   ⟨0xF000, 0x1000, "JP_NNN"⟩,
   ⟨0xF000, 0x2000, "CALL_NNN"⟩,
   ⟨0xF000, 0x3000, "SE_VX__NN"⟩,
   ⟨0xF000, 0x4000, "SNE_VX__NN"⟩,
   ⟨0xF00F, 0x5000, "SE_VX__VY"⟩,
   ⟨0xF000, 0x6000, "LD_VX__NN"⟩,
   ⟨0xF000, 0x7000, "ADD_VX__NN"⟩,
   ⟨0xF00F, 0x8000, "LD_VX__VY"⟩,
   ⟨0xF00F, 0x8001, "OR_VX__VY"⟩,
   ⟨0xF00F, 0x8002, "AND_VX__VY"⟩] ++
  [⟨0xF00F, 0x8003, "XOR_VX__VY"⟩,
   ⟨0xF00F, 0x8004, "ADD_VX__VY"⟩,
   ⟨0xF00F, 0x8005, "SUB_VX__VY"⟩,
   ⟨0xF00F, 0x8006, "SHR_VX__VY"⟩,
   ⟨0xF00F, 0x8007, "SUBN_VX__VY"⟩,
   ⟨0xF00F, 0x800E, "SHL_VX__VY"⟩,
   ⟨0xF00F, 0x9000, "SNE_VX__VY"⟩,
   ⟨0xF000, 0xA000, "LD_I__NNN"⟩,
   ⟨0xF000, 0xB000, "JP_V0__NNN"⟩,
   ⟨0xF000, 0xC000, "RND_VX__NN"⟩,
   ⟨0xF000, 0xD000, "DRW_VX__VY__N"⟩,
   ⟨0xF0FF, 0xE09E, "SKP_VX"⟩] ++
  [⟨0xF0FF, 0xE0A1, "SKNP_VX"⟩,
   ⟨0xF0FF, 0xF007, "LD_VX__DT"⟩,
   ⟨0xF0FF, 0xF00A, "LD_VX__K"⟩,
   ⟨0xF0FF, 0xF015, "LD_DT__VX"⟩,
   ⟨0xF0FF, 0xF018, "LD_ST__VX"⟩,
   ⟨0xF0FF, 0xF01E, "ADD_I__VX"⟩,
   ⟨0xF0FF, 0xF029, "LD_F__VX"⟩,
   ⟨0xF0FF, 0xF033, "LD_B__VX"⟩,
   ⟨0xF0FF, 0xF055, "LD__I___VX"⟩,
   ⟨0xF0FF, 0xF065, "LD_VX___I"⟩]

/-- The rows that admit a word; R73 has at most one. -/
def rowsOf (w : Word) : List OpcodeRow := opcodeMap.filter (·.admits w)

/-- The word is an instruction: some row admits it (R73, R80). -/
def wellFormedWord (w : Word) : Bool := opcodeMap.any (·.admits w)

end Sys2Proof
end

