-- ==== Sys2Proof/Decode.lean ====
section
/-! DEFINITION. The decoder, family by family (30_encoding.md R71, R73, R75 to R79), total on any bytes, and the encoder
written from the format table of R71 and the patterns of R74. -/

namespace Sys2Proof

/-! ## Byte order and fields -/

/-- A word from its bytes, the high byte first (20_memory.md R52). -/
def bigEndian (hi lo : Byte) : Word := hi ++ lo

/-- The byte of a word that lies at the lower address (R52). -/
def highByte (w : Word) : Byte := w.extractLsb' 8 8

/-- The byte of a word that lies at the higher address (R52). -/
def lowByte (w : Word) : Byte := w.extractLsb' 0 8

/-- `w[15:12]`, the opcode family (R71). -/
def fieldFam (w : Word) : Nibble := w.extractLsb' 12 4

/-- `X = w[11:8]` (R71). -/
def fieldX (w : Word) : Nibble := w.extractLsb' 8 4

/-- `Y = w[7:4]` (R71). -/
def fieldY (w : Word) : Nibble := w.extractLsb' 4 4

/-- `N = w[3:0]` (R71). -/
def fieldN (w : Word) : Nibble := w.extractLsb' 0 4

/-- `NN = w[7:0]` (R71). -/
def fieldNN (w : Word) : Byte := w.extractLsb' 0 8

/-- `NNN = w[11:0]` (R71). -/
def fieldNNN (w : Word) : Addr := w.extractLsb' 0 12

/-! ## Decoding -/

/-- Family 0: exactly two words (R75). -/
def decodeFamily0 (nnn : Addr) : Option Instr :=
  match nnn.toNat with
  | 0x0E0 => some .cls
  | 0x0EE => some .ret
  | _ => none

/-- Families 5 and 9: the low nibble is 0 (R76, D20). -/
def decodeLowZero (n : Nibble) (i : Instr) : Option Instr :=
  if n = 0x0 then some i else none

/-- Family 8: the low nibble selects the operation (R77, D9; log 9). -/
def decodeFamily8 (x y n : Nibble) : Option Instr :=
  match n.toNat with
  | 0x0 => some (.ldReg x y)
  | 0x1 => some (.orReg x y)
  | 0x2 => some (.andReg x y)
  | 0x3 => some (.xorReg x y)
  | 0x4 => some (.addReg x y)
  | 0x5 => some (.subReg x y)
  | 0x6 => some (.shr x y)
  | 0x7 => some (.subnReg x y)
  | 0xE => some (.shl x y)
  | _ => none

/-- Family E: two low bytes (R78). -/
def decodeFamilyE (x : Nibble) (nn : Byte) : Option Instr :=
  match nn.toNat with
  | 0x9E => some (.skp x)
  | 0xA1 => some (.sknp x)
  | _ => none

/-- Family F: nine low bytes (R79). -/
def decodeFamilyF (x : Nibble) (nn : Byte) : Option Instr :=
  match nn.toNat with
  | 0x07 => some (.ldVxDt x)
  | 0x0A => some (.ldVxK x)
  | 0x15 => some (.ldDtVx x)
  | 0x18 => some (.ldStVx x)
  | 0x1E => some (.addI x)
  | 0x29 => some (.ldF x)
  | 0x33 => some (.ldB x)
  | 0x55 => some (.storeRegs x)
  | 0x65 => some (.loadRegs x)
  | _ => none

/-- The instruction of a word, or none where the word is undefined (R73, R80): the high nibble selects the family. -/
def decodeWord (w : Word) : Option Instr :=
  match (fieldFam w).toNat with
  | 0x0 => decodeFamily0 (fieldNNN w)
  | 0x1 => some (.jp (fieldNNN w))
  | 0x2 => some (.call (fieldNNN w))
  | 0x3 => some (.seImm (fieldX w) (fieldNN w))
  | 0x4 => some (.sneImm (fieldX w) (fieldNN w))
  | 0x5 => decodeLowZero (fieldN w) (.seReg (fieldX w) (fieldY w))
  | 0x6 => some (.ldImm (fieldX w) (fieldNN w))
  | 0x7 => some (.addImm (fieldX w) (fieldNN w))
  | 0x8 => decodeFamily8 (fieldX w) (fieldY w) (fieldN w)
  | 0x9 => decodeLowZero (fieldN w) (.sneReg (fieldX w) (fieldY w))
  | 0xA => some (.ldI (fieldNNN w))
  | 0xB => some (.jpV0 (fieldNNN w))
  | 0xC => some (.rnd (fieldX w) (fieldNN w))
  | 0xD => some (.drw (fieldX w) (fieldY w) (fieldN w))
  | 0xE => decodeFamilyE (fieldX w) (fieldNN w)
  | 0xF => decodeFamilyF (fieldX w) (fieldNN w)
  | _ => none

/-- What the bytes at some address begin with. -/
inductive Decoded where
  /-- An instruction, and the bytes after it (every instruction is two bytes, R70). -/
  | instr (i : Instr) (rest : List Byte)
  /-- A word that is no instruction (R80), and the bytes after it. -/
  | undefinedWord (w : Word) (rest : List Byte)
  /-- Fewer than the two bytes of an instruction. -/
  | truncated
deriving DecidableEq, Repr

/-- Decode the first instruction of a list of bytes: big-endian (R52), two bytes (R70), total. -/
def decode : List Byte → Decoded
  | hi :: lo :: rest =>
    match decodeWord (bigEndian hi lo) with
    | some i => .instr i rest
    | none => .undefinedWord (bigEndian hi lo) rest
  | _ => .truncated

/-! ## Encoding -/

/-- The word of an instruction: its pattern of R74 with the fields where R71 puts them. -/
def encode : Instr → Word
  | .cls => 0x00E0
  | .ret => 0x00EE
  | .jp nnn => 0x1#4 ++ nnn
  | .call nnn => 0x2#4 ++ nnn
  | .seImm x nn => 0x3#4 ++ x ++ nn
  | .sneImm x nn => 0x4#4 ++ x ++ nn
  | .seReg x y => 0x5#4 ++ x ++ y ++ 0x0#4
  | .ldImm x nn => 0x6#4 ++ x ++ nn
  | .addImm x nn => 0x7#4 ++ x ++ nn
  | .ldReg x y => 0x8#4 ++ x ++ y ++ 0x0#4
  | .orReg x y => 0x8#4 ++ x ++ y ++ 0x1#4
  | .andReg x y => 0x8#4 ++ x ++ y ++ 0x2#4
  | .xorReg x y => 0x8#4 ++ x ++ y ++ 0x3#4
  | .addReg x y => 0x8#4 ++ x ++ y ++ 0x4#4
  | .subReg x y => 0x8#4 ++ x ++ y ++ 0x5#4
  | .shr x y => 0x8#4 ++ x ++ y ++ 0x6#4
  | .subnReg x y => 0x8#4 ++ x ++ y ++ 0x7#4
  | .shl x y => 0x8#4 ++ x ++ y ++ 0xE#4
  | .sneReg x y => 0x9#4 ++ x ++ y ++ 0x0#4
  | .ldI nnn => 0xA#4 ++ nnn
  | .jpV0 nnn => 0xB#4 ++ nnn
  | .rnd x nn => 0xC#4 ++ x ++ nn
  | .drw x y n => 0xD#4 ++ x ++ y ++ n
  | .skp x => 0xE#4 ++ x ++ 0x9E#8
  | .sknp x => 0xE#4 ++ x ++ 0xA1#8
  | .ldVxDt x => 0xF#4 ++ x ++ 0x07#8
  | .ldVxK x => 0xF#4 ++ x ++ 0x0A#8
  | .ldDtVx x => 0xF#4 ++ x ++ 0x15#8
  | .ldStVx x => 0xF#4 ++ x ++ 0x18#8
  | .addI x => 0xF#4 ++ x ++ 0x1E#8
  | .ldF x => 0xF#4 ++ x ++ 0x29#8
  | .ldB x => 0xF#4 ++ x ++ 0x33#8
  | .storeRegs x => 0xF#4 ++ x ++ 0x55#8
  | .loadRegs x => 0xF#4 ++ x ++ 0x65#8

/-- The bytes of a word as memory holds them, lowest address first (R52). -/
def wordBytes (w : Word) : List Byte := [highByte w, lowByte w]

/-- The bytes of an instruction as memory holds them (R52, R70). -/
def encodeBytes (i : Instr) : List Byte := wordBytes (encode i)

/-! ## The host's way in -/

/-- The instruction the decoder reads from the table word `w`: one 16-bit word, laid out high byte first. Every row of
the table has 16 bits (R70), so a row's `nbits` says nothing more, and a number of more than 16 bits is no word. -/
def decodeTableWord (_nbits w : Nat) : Option Instr :=
  if w < 65536 then
    match decode (wordBytes (BitVec.ofNat 16 w)) with
    | .instr i _ => some i
    | .undefinedWord _ _ => none
    | .truncated => none
  else none

end Sys2Proof
end

