-- ==== Sys2Proof/Config.lean ====
section
/-! DEFINITION. What an implementation fixes (00_scope.md R7) and the free value of the machine (R132). -/

namespace Sys2Proof

/-- The parameters the spec leaves OPEN (R7), fixed for the life of the machine (R34).
DESIGN CHOICE (log 3): they stand in State, where no event writes them, so that a statement about every state holds
for every setting. -/
structure Config where
  /-- UNIMPL_STRICT: an undefined word is a fatal fault, not a reported skip (R184, D7). -/
  unimplStrict : Bool
  /-- SHIFT_USES_VY: `8XY6` and `8XYE` shift VY into VX, not VX in place (R129, R131, D8). -/
  shiftUsesVY : Bool
  /-- FONT: 16 glyphs of 5 bytes (R22, R23, D22). -/
  font : Vector (Vector Byte 5) 16
deriving DecidableEq, Repr

/-- The `n`-th byte of the random source where the host names none (R132, D19): a free draw under no law.
It has no body, so nothing can be proved of its value (log 2). -/
opaque Config.freeRand : Nat → Byte

end Sys2Proof
end

