-- ==== Sys2Proof/Machine/Defaults.lean ====
section
/-! DEFINITION. The default configuration (00_scope.md R7) and the reset contents of memory (10_state.md R37). -/

namespace Sys2Proof.Machine

/-- Glyphs 0 to 7 of the default font (R23). PRESUMED (log 4): the spec has them from general knowledge. -/
def fontLow : Vector (Vector Byte 5) 8 :=
  #v[#v[0xF0, 0x90, 0x90, 0x90, 0xF0],
     #v[0x20, 0x60, 0x20, 0x20, 0x70],
     #v[0xF0, 0x10, 0xF0, 0x80, 0xF0],
     #v[0xF0, 0x10, 0xF0, 0x10, 0xF0],
     #v[0x90, 0x90, 0xF0, 0x10, 0x10],
     #v[0xF0, 0x80, 0xF0, 0x10, 0xF0],
     #v[0xF0, 0x80, 0xF0, 0x90, 0xF0],
     #v[0xF0, 0x10, 0x20, 0x40, 0x40]]

/-- Glyphs 8 to F of the default font (R23). PRESUMED (log 4). -/
def fontHigh : Vector (Vector Byte 5) 8 :=
  #v[#v[0xF0, 0x90, 0xF0, 0x90, 0xF0],
     #v[0xF0, 0x90, 0xF0, 0x10, 0xF0],
     #v[0xF0, 0x90, 0xF0, 0x90, 0x90],
     #v[0xE0, 0x90, 0xE0, 0x90, 0xE0],
     #v[0xF0, 0x80, 0x80, 0x80, 0xF0],
     #v[0xE0, 0x90, 0x90, 0x90, 0xE0],
     #v[0xF0, 0x80, 0xF0, 0x80, 0xF0],
     #v[0xF0, 0x80, 0xF0, 0x80, 0x80]]

/-- The default FONT (R7, R23, D22). -/
def defaultFont : Vector (Vector Byte 5) 16 := fontLow ++ fontHigh

/-- The defaults of R7: UNIMPL_STRICT false (D7), SHIFT_USES_VY false (D8), FONT the table of R23 (log 3, log 4). -/
def defaultConfig : Config where
  unimplStrict := false
  shiftUsesVY := false
  font := defaultFont

/-- The reset contents of memory (R37): glyph `d` at `5*d` to `5*d + 4` (R22), 0x00 from 0x050 on. -/
def resetByte (c : Config) (a : Nat) : Byte :=
  if h : a < 80 then (c.font[a / 5])[a % 5]'(Nat.mod_lt _ (by decide)) else 0x00

end Sys2Proof.Machine
end

