-- ==== Sys2Proof/Machine/Memory.lean ====
section
/-! DEFINITION. Memory as plain data (10_state.md R21, 20_memory.md R50): the cells that differ from the reset contents,
by address, strictly rising. `bg` is what an unlisted address reads as. -/

namespace Sys2Proof.Machine

/-- Memory in canonical form (`Memory.wf`): equal memories are equal lists (log 8). -/
abbrev Memory := List Host.Cell

/-- The value of the cell at `a`: "every cell returns the last value written to it" (R54). -/
def Memory.read (bg : Nat → Byte) : Memory → Nat → Byte
  | [], a => bg a
  | (k, v) :: rest, a => if k = a then v else Memory.read bg rest a

/-- List the cell at `a` with value `b`. -/
def Memory.insert (a : Nat) (b : Byte) : Memory → Memory
  | [] => [(a, b)]
  | (k, v) :: rest =>
    if a < k then (a, b) :: (k, v) :: rest
    else if a = k then (a, b) :: rest
    else (k, v) :: Memory.insert a b rest

/-- Take the cell at `a` out of the list. -/
def Memory.erase (a : Nat) : Memory → Memory
  | [] => []
  | (k, v) :: rest => if k = a then Memory.erase a rest else (k, v) :: Memory.erase a rest

/-- Write one cell (`MemWrite`, R9), keeping the canonical form. -/
def Memory.write (bg : Nat → Byte) (m : Memory) (a : Nat) (b : Byte) : Memory :=
  if b = bg a then Memory.erase a m else Memory.insert a b m

/-- The canonical form: addresses below 4096 and strictly rising, no cell equal to what its address reads as unlisted. -/
def Memory.wf (bg : Nat → Byte) : Memory → Bool
  | [] => true
  | (k, v) :: rest =>
    decide (k < 4096) && v != bg k && rest.all (fun c => decide (k < c.1)) && Memory.wf bg rest

end Sys2Proof.Machine
end

