-- ==== Sys2Proof/Machine/State.lean ====
section
/-! DEFINITION. The Machine State (10_state.md R20) with the fault latch (R33), the model's own fields beside it, and the
state after Reset (R37). -/

namespace Sys2Proof.Machine

/-- The four causes of a fatal fault (60_exceptions.md R181). -/
inductive FaultCause where
  /-- OutOfBounds.Fetch, raised by the fetch of any Step (R182). -/
  | fetch
  /-- OutOfBounds.StackOverflow, raised by `2NNN` (R183). -/
  | stackOverflow
  /-- OutOfBounds.StackUnderflow, raised by `00EE` (R183). -/
  | stackUnderflow
  /-- UnimplementedOpcode, raised by decode under UNIMPL_STRICT (R184). -/
  | unimplementedOpcode
deriving DecidableEq, Repr

/-- The fault record of R181: the cause, the `pc` at the start of the faulting Step, the word if one was fetched. -/
structure FaultRecord where
  cause : FaultCause
  atPc : Word
  word : Word
deriving DecidableEq, Repr

/-- The outputs of one Step or Tick that are not state (R34, R96, R170); `fault`, the fifth field of R96, is the latch
itself and is not held twice (`State.stepOutcome`). DESIGN CHOICE (log 5): kept in State until the next such event, and
read by no event. -/
structure EventOutput where
  displayChanged : Bool
  audioCue : Bool
  unimpl : Bool
  unimplWord : Word
deriving DecidableEq, Repr

/-- All outputs zero. -/
def EventOutput.zero : EventOutput where
  displayChanged := false
  audioCue := false
  unimpl := false
  unimplWord := 0x0000

/-- The display buffer, 32 rows of 64 one-bit cells (R30): `disp[y][x]`. -/
abbrev Display := Vector (Vector Bool 64) 32

/-- The machine. `mem` to `fault` are the fields of R20 and R33; `cfg`, `out`, `randIn` and `draws` are the model's. -/
structure State where
  /-- The configuration, fixed for the life of the machine (R7, R34; log 3). -/
  cfg : Config
  /-- Memory (R21); an unlisted address reads as the reset contents (R37; log 8). -/
  mem : Memory
  /-- V0 to VF (R24); VF is also the flag (R25). -/
  x : Vector Byte 16
  /-- The index register (R27). -/
  I : Word
  /-- The program counter (R28). -/
  pc : Word
  /-- The return addresses (R29). -/
  stack : Vector Word 16
  /-- How many return addresses are held, 0 to 16 (R29, R36; log 7). -/
  sp : Fin 17
  /-- The display buffer (R30). -/
  disp : Display
  /-- The key latches (R31). -/
  key : Vector Bool 16
  /-- The delay timer (R32). -/
  DT : Byte
  /-- The sound timer (R32). -/
  ST : Byte
  /-- The fault latch (R33). -/
  fault : Option FaultRecord
  /-- The outputs of the latest Step or Tick (R34; log 5). -/
  out : EventOutput
  /-- The random input `rand` of the Step, if the host supplies it (R90, R132; log 2). -/
  randIn : Option Byte
  /-- Which free draw comes next where the host supplies none (R132; log 2). -/
  draws : Nat
deriving DecidableEq, Repr

/-- Why the machine could stop without a next state. NO CONSTRUCTOR: the fatal faults of R181 are recorded in the latch
`State.fault`, which is state (R33, R186), and later events still act on the machine (R187), so each is taken as a next
state (log 6). Safe: nothing the spec lets happen is left out. -/
inductive Fault
deriving DecidableEq, Repr

/-- Why the model has no next state for an instruction or an event. -/
inductive Refusal where
  /-- Raised by an arm of `exec` whose instruction has no meaning yet; no arm is left so. Safe: the machine stops. -/
  | notModelled (mnemonic : String)
  /-- Raised by the host event `Load` with more than 3584 bytes, which "is not an event of the machine" (R174, I9,
  D23); no instruction raises it. Safe: the machine stops where the spec has no behaviour. -/
  | romTooLong (length : Nat)
deriving DecidableEq, Repr

/-- The state after `Reset` (R37, R200) of a machine with configuration `c`: memory at its reset contents, `pc` at
0x200, everything else zero, no fault. The model's own fields start empty (log 2, log 5). -/
def State.resetWith (c : Config) : State where
  cfg := c
  mem := []
  x := Vector.replicate 16 0x00
  I := 0x0000
  pc := 0x0200
  stack := Vector.replicate 16 0x0000
  sp := 0
  disp := Vector.replicate 32 (Vector.replicate 64 false)
  key := Vector.replicate 16 false
  DT := 0x00
  ST := 0x00
  fault := none
  out := EventOutput.zero
  randIn := none
  draws := 0

/-- The machine right after reset, with the default configuration of R7 (log 3, log 4). -/
def State.reset : State := State.resetWith defaultConfig

end Sys2Proof.Machine
end

