-- ==== Sys2Proof/Machine/Ops.lean ====
section
/-! DEFINITION. The operations the instruction rules are written in (00_scope.md R9): registers, memory, the program
counter, the stack, the display, the keys, the random input, and raising a fatal fault (60_exceptions.md R186). -/

namespace Sys2Proof.Machine

/-! ## Registers (R24): no register is hardwired -/

/-- `x[i]` (R9). -/
def State.v (s : State) (i : Nibble) : Byte := s.x[i.toNat]'i.isLt

/-- `x[i] <- b` (R9), seen by every later read. -/
def State.setV (s : State) (i : Nibble) (b : Byte) : State := { s with x := s.x.set i.toNat b i.isLt }

/-- `I <- w` (R27): all 16 bits are kept. -/
def State.setI (s : State) (w : Word) : State := { s with I := w }

/-- `DT <- b` (R32). -/
def State.setDT (s : State) (b : Byte) : State := { s with DT := b }

/-- `ST <- b` (R32). -/
def State.setST (s : State) (b : Byte) : State := { s with ST := b }

/-! ## Memory (R50, R54) -/

/-- `mem[a]`. -/
def State.readByte (s : State) (a : Addr) : Byte := Memory.read (resetByte s.cfg) s.mem a.toNat

/-- `mem[a] <- b`; no region is protected (R22, D31). -/
def State.writeByte (s : State) (a : Addr) (b : Byte) : State :=
  { s with mem := Memory.write (resetByte s.cfg) s.mem a.toNat b }

/-! ## The program counter (R28, R94): 16 bits, never masked -/

/-- `pc <- target`. -/
def State.setPc (s : State) (target : Word) : State := { s with pc := target }

/-- `pc <- pc + 2`, the next instruction. -/
def State.nextInstr (s : State) : State := s.setPc (s.pc + 2)

/-- `pc <- pc + 4` where the skip is taken, else `pc <- pc + 2`. -/
def State.skipIf (s : State) (taken : Bool) : State := s.setPc (s.pc + if taken then 4 else 2)

/-! ## Fetch (R52, R56, R92) -/

/-- `pc + 1 > 4095`, the sum on naturals: the fetch would leave memory. -/
def State.fetchOutOfBounds (s : State) : Bool := decide (s.pc.toNat + 1 > 4095)

/-- `MemRead(pc, 2)`: the word at `pc`, big-endian; meant where the fetch is in bounds. -/
def State.fetchWord (s : State) : Word :=
  bigEndian (s.readByte (s.pc.setWidth 12)) (s.readByte ((s.pc + 1).setWidth 12))

/-! ## The stack (R29) -/

/-- `stack[sp] <- a; sp <- sp + 1`, where the stack is not full. -/
def State.push (s : State) (a : Word) (h : s.sp.val < 16) : State :=
  { s with stack := s.stack.set s.sp.val a h, sp := ⟨s.sp.val + 1, by omega⟩ }

/-- `stack[sp - 1]`, the entry a pop uncovers, where the stack is not empty. -/
def State.topOfStack (s : State) (h : 0 < s.sp.val) : Word := s.stack[s.sp.val - 1]'(by omega)

/-- `sp <- sp - 1`, where the stack is not empty; the popped entry keeps its value. -/
def State.dropTop (s : State) (_h : 0 < s.sp.val) : State := { s with sp := ⟨s.sp.val - 1, by omega⟩ }

/-! ## The display (R30): columns modulo 64, rows modulo 32 -/

/-- `disp[py mod 32][px mod 64]`. -/
def Display.pixel (d : Display) (px py : Nat) : Bool :=
  (d[py % 32]'(Nat.mod_lt _ (by decide)))[px % 64]'(Nat.mod_lt _ (by decide))

/-- `disp[py mod 32][px mod 64] <- disp[py mod 32][px mod 64] ^ 1`. -/
def Display.toggle (d : Display) (px py : Nat) : Display :=
  d.set (py % 32)
    ((d[py % 32]'(Nat.mod_lt _ (by decide))).set (px % 64) (!Display.pixel d px py) (Nat.mod_lt _ (by decide)))
    (Nat.mod_lt _ (by decide))

/-- All 2048 cells off. -/
def Display.blank : Display := Vector.replicate 32 (Vector.replicate 64 false)

/-- Replace the display and report it: `out.display_changed <- 1` (R96). -/
def State.setDisp (s : State) (d : Display) : State :=
  { s with disp := d, out := { s.out with displayChanged := true } }

/-! ## The keys (R31) -/

/-- `key[k] = 1`. -/
def State.keyDown (s : State) (k : Nibble) : Bool := s.key[k.toNat]'k.isLt

/-- `key[k] <- pressed`. -/
def State.latchKey (s : State) (k : Nibble) (pressed : Bool) : State :=
  { s with key := s.key.set k.toNat pressed k.isLt }

/-! ## The random input (R132; log 2) -/

/-- `rand` of this Step: the host's byte, or a free draw. -/
def State.rand (s : State) : Byte := s.randIn.getD (Config.freeRand s.draws)

/-- The draw is used: no later instruction sees the same one. -/
def State.drawn (s : State) : State := { s with randIn := none, draws := s.draws + 1 }

/-! ## Fatal faults (R186)

There is no handler, no vector, no saved state and no return instruction (R180, R187): once the latch is set every later
Step changes nothing (R91), and only `Reset` clears it (`State.resetEvent`). -/

/-- Raise a fatal fault: the record `(cause, at_pc, word)` goes into the latch, and nothing else changes (R181, R186). -/
def State.raise (s : State) (cause : FaultCause) (word : Word) : State :=
  { s with fault := some ⟨cause, s.pc, word⟩ }

/-- The code of a cause (R181, D6). -/
def FaultCause.code : FaultCause → Nat
  | .fetch => 1
  | .stackOverflow => 2
  | .stackUnderflow => 3
  | .unimplementedOpcode => 4

/-- The two error classes the core raises (R180). -/
inductive ErrorClass where
  | outOfBounds
  | unimplementedOpcode
deriving DecidableEq, Repr

/-- The class of a cause (R181). -/
def FaultCause.errorClass : FaultCause → ErrorClass
  | .fetch => .outOfBounds
  | .stackOverflow => .outOfBounds
  | .stackUnderflow => .outOfBounds
  | .unimplementedOpcode => .unimplementedOpcode

/-- A word that is no instruction (R184): a fatal fault under UNIMPL_STRICT, else reported and skipped. -/
def State.undefinedWord (s : State) (w : Word) : State :=
  if s.cfg.unimplStrict then s.raise .unimplementedOpcode w
  else { s with pc := s.pc + 2, out := { s.out with unimpl := true, unimplWord := w } }

/-! ## Outputs (R34, R96) -/

/-- The start of a Step: no output is kept from an earlier event (R34). -/
def State.beginStep (s : State) : State := { s with out := EventOutput.zero }

/-- The step outcome of R96, read after a Step. -/
structure StepOutcome where
  displayChanged : Bool
  audioCue : Bool
  unimpl : Bool
  unimplWord : Word
  fault : Option FaultRecord
deriving DecidableEq, Repr

/-- The step outcome of R96: its fifth field is the value of the fault latch after the Step. -/
def State.stepOutcome (s : State) : StepOutcome where
  displayChanged := s.out.displayChanged
  audioCue := s.out.audioCue
  unimpl := s.out.unimpl
  unimplWord := s.out.unimplWord
  fault := s.fault

end Sys2Proof.Machine
end

