-- ==== Sys2Proof/Machine/Flags.lean ====
section
/-! DEFINITION. The values VF receives as the flag (10_state.md R25) and the order of the flag write (R26). -/

namespace Sys2Proof.Machine

/-- A flag as a register value: 1 or 0 (R25). -/
def flagByte (f : Bool) : Byte := if f then 0x01 else 0x00

/-- `8XY4`: the sum passes 255 (R127). -/
def carryFlag (a b : Byte) : Bool := decide (a.toNat + b.toNat > 255)

/-- `8XY5` and `8XY7`: no borrow, that is minuend ≥ subtrahend; equal operands give 1 (R120, R128, R130, D27). -/
def noBorrowFlag (minuend subtrahend : Byte) : Bool := decide (minuend.toNat ≥ subtrahend.toNat)

/-- `8XY6`: bit 0 of the source (R129). -/
def shiftedOutRight (a : Byte) : Bool := a.getLsbD 0

/-- `8XYE`: bit 7 of the source (R131). -/
def shiftedOutLeft (a : Byte) : Bool := a.getLsbD 7

/-- `FX1E`: the sum, on naturals, passes 0xFFF (R141). -/
def indexOverflowFlag (i : Word) (b : Byte) : Bool := decide (i.toNat + b.toNat > 0x0FFF)

/-- `x[0xF] <- f` (R25). -/
def State.setFlag (s : State) (f : Bool) : State := s.setV 0xF (flagByte f)

end Sys2Proof.Machine
end

