-- ==== Sys2Proof/Machine/Operands.lean ====
section
/-! DEFINITION. How the instruction rules form their operands: the data address (20_memory.md R55), the shift source
(42_register_alu.md R129), the key index (45_keypad_timers.md R160), the immediates (30_encoding.md R72), and the byte
sequences of `FX33`, `FX55` and `FX65` (R54). -/

namespace Sys2Proof.Machine

/-- `EA(k) = (I + k) mod 4096`, the sum on naturals before the reduction (R55, D13; log 12). -/
def ea (i : Word) (k : Nat) : Addr := BitVec.ofNat 12 (i.toNat + k)

/-- `zext_16(NNN)` (R72). -/
def zextAddr (nnn : Addr) : Word := nnn.setWidth 16

/-- `zext_16` of a byte (R72, R107). -/
def zextByte (b : Byte) : Word := b.setWidth 16

/-- The source register of a shift: VY if SHIFT_USES_VY, else VX (R129, R131, D8). -/
def shiftSource (c : Config) (x y : Nibble) : Nibble := if c.shiftUsesVY then y else x

/-- `kx = x[X][3:0]` (R160, D14; log 14). -/
def keyIndex (b : Byte) : Nibble := b.extractLsb' 0 4

/-- The least pressed key, if any is pressed (R163). -/
def State.lowestKey (s : State) : Option Nibble :=
  ((List.range 16).map (BitVec.ofNat 4)).find? (fun k => s.keyDown k)

/-- The hundreds digit (R143). -/
def hundreds (v : Byte) : Byte := BitVec.ofNat 8 (v.toNat / 100)

/-- The tens digit (R143). -/
def tens (v : Byte) : Byte := BitVec.ofNat 8 (v.toNat / 10 % 10)

/-- The ones digit (R143). -/
def ones (v : Byte) : Byte := BitVec.ofNat 8 (v.toNat % 10)

/-- `I + X + 1`, modulo 65536 (R144, R145, D12; log 13). -/
def indexAfterBlock (i : Word) (x : Nibble) : Word := i + x.setWidth 16 + 1

/-- The first `n` steps of `FX55`: `MemWrite(EA(k), 1, x[k])` for `k` from 0, with `I` as it was at the start (R144). -/
def storeBlock (base : Word) : Nat → State → State
  | 0, s => s
  | n + 1, s =>
    let t := storeBlock base n s
    t.writeByte (ea base n) (t.v (BitVec.ofNat 4 n))

/-- The first `n` steps of `FX65`: `x[k] <- MemRead(EA(k), 1)` for `k` from 0, with `I` as it was at the start (R145). -/
def loadBlock (base : Word) : Nat → State → State
  | 0, s => s
  | n + 1, s =>
    let t := loadBlock base n s
    t.setV (BitVec.ofNat 4 n) (t.readByte (ea base n))

end Sys2Proof.Machine
end

