-- ==== Sys2Proof/Machine/ControlFlow.lean ====
section
/-! DEFINITION. Control flow (41_control_flow.md): `00EE`, `1NNN`, `2NNN`, `3XNN`, `4XNN`, `5XY0`, `9XY0`, `BNNN`. None
writes VF or any other register. -/

namespace Sys2Proof.Machine

/-- `00EE` (R100): pop into `pc`, with no further increment; on an empty stack raise StackUnderflow. -/
def execRet (s : State) : Host.Outcome State Fault Refusal :=
  if h : 0 < s.sp.val then .next ((s.dropTop h).setPc (s.topOfStack h))
  else .next (s.raise .stackUnderflow (encode .ret))

/-- `1NNN` (R101). -/
def execJp (nnn : Addr) (s : State) : Host.Outcome State Fault Refusal :=
  .next (s.setPc (zextAddr nnn))

/-- `2NNN` (R102): push `pc + 2` and jump; on a full stack raise StackOverflow. -/
def execCall (nnn : Addr) (s : State) : Host.Outcome State Fault Refusal :=
  if h : s.sp.val < 16 then .next ((s.push (s.pc + 2) h).setPc (zextAddr nnn))
  else .next (s.raise .stackOverflow (encode (.call nnn)))

/-- `3XNN` (R103). -/
def execSeImm (x : Nibble) (nn : Byte) (s : State) : Host.Outcome State Fault Refusal :=
  .next (s.skipIf (s.v x == nn))

/-- `4XNN` (R104). -/
def execSneImm (x : Nibble) (nn : Byte) (s : State) : Host.Outcome State Fault Refusal :=
  .next (s.skipIf (s.v x != nn))

/-- `5XY0` (R105). -/
def execSeReg (x y : Nibble) (s : State) : Host.Outcome State Fault Refusal :=
  .next (s.skipIf (s.v x == s.v y))

/-- `9XY0` (R106). -/
def execSneReg (x y : Nibble) (s : State) : Host.Outcome State Fault Refusal :=
  .next (s.skipIf (s.v x != s.v y))

/-- `BNNN` (R107): `NNN + V0`, not masked; the register is always V0. -/
def execJpV0 (nnn : Addr) (s : State) : Host.Outcome State Fault Refusal :=
  .next (s.setPc (zextAddr nnn + zextByte (s.v 0x0)))

end Sys2Proof.Machine
end

