-- ==== Sys2Proof/Machine/DisplayUnit.lean ====
section
/-! DEFINITION. The display writers (44_display.md): `00E0` and `DXYN`. -/

namespace Sys2Proof.Machine

/-- A draw in progress: the display, and whether a toggle has turned an on cell off (R151). -/
structure Draw where
  disp : Display
  collision : Bool
deriving DecidableEq, Repr

/-- One column of one sprite row: the cell is toggled where the sprite's bit is set, most significant bit leftmost. -/
def drawColumn (vx vy row : Nat) (b : Byte) (d : Draw) (col : Nat) : Draw :=
  if b.getLsbD (7 - col) then
    { disp := Display.toggle d.disp (vx + col) (vy + row)
      collision := d.collision || Display.pixel d.disp (vx + col) (vy + row) }
  else d

/-- One sprite row, columns 0 to 7. -/
def drawRow (vx vy : Nat) (row : Nat) (b : Byte) (d : Draw) : Draw :=
  (List.range 8).foldl (drawColumn vx vy row b) d

/-- The first `n` sprite rows, row 0 from `EA(0)` (R54, R151). -/
def drawSprite (s : State) (vx vy : Nat) : Nat → Draw
  | 0 => { disp := s.disp, collision := false }
  | n + 1 => drawRow vx vy n (s.readByte (ea s.I n)) (drawSprite s vx vy n)

/-- `00E0` (R150): all cells off; `display_changed` is 1 whatever they were (D17; log 17). -/
def execCls (s : State) : Host.Outcome State Fault Refusal :=
  .next (s.setDisp Display.blank).nextInstr

/-- `DXYN` (R151): VX and VY are read first, VF is written once after the whole sprite (D16; log 16). -/
def execDrw (x y n : Nibble) (s : State) : Host.Outcome State Fault Refusal :=
  let d := drawSprite s (s.v x).toNat (s.v y).toNat n.toNat
  .next ((s.setDisp d.disp).setFlag d.collision).nextInstr

end Sys2Proof.Machine
end

