-- ==== Sys2Proof/Machine/IndexMemory.lean ====
section
/-! DEFINITION. Index register and memory (43_index_memory.md): `ANNN`, `FX1E`, `FX29`, `FX33`, `FX55`, `FX65`. Data
addresses are masked, never checked (20_memory.md R55). -/

namespace Sys2Proof.Machine

/-- `ANNN` (R140). -/
def execLdI (nnn : Addr) (s : State) : Host.Outcome State Fault Refusal :=
  .next (s.setI (zextAddr nnn)).nextInstr

/-- `FX1E` (R141): the flag first, then `I + VX` modulo 65536 with VX read again (D11, D12; log 11, log 13). -/
def execAddI (x : Nibble) (s : State) : Host.Outcome State Fault Refusal :=
  let t := s.setFlag (indexOverflowFlag s.I (s.v x))
  .next (t.setI (t.I + zextByte (t.v x))).nextInstr

/-- `FX29` (R142): `VX * 5`, VX not masked (D15; log 15). -/
def execLdF (x : Nibble) (s : State) : Host.Outcome State Fault Refusal :=
  .next (s.setI (zextByte (s.v x) * 5)).nextInstr

/-- `FX33` (R143): the decimal digits of VX at `EA(0)`, `EA(1)`, `EA(2)`; `I` unchanged. -/
def execLdB (x : Nibble) (s : State) : Host.Outcome State Fault Refusal :=
  .next (((s.writeByte (ea s.I 0) (hundreds (s.v x))).writeByte (ea s.I 1) (tens (s.v x))).writeByte (ea s.I 2)
    (ones (s.v x))).nextInstr

/-- `FX55` (R144): V0 to VX to memory, then `I <- I + X + 1`. -/
def execStoreRegs (x : Nibble) (s : State) : Host.Outcome State Fault Refusal :=
  .next ((storeBlock s.I (x.toNat + 1) s).setI (indexAfterBlock s.I x)).nextInstr

/-- `FX65` (R145): memory to V0 to VX, then `I <- I + X + 1`. -/
def execLoadRegs (x : Nibble) (s : State) : Host.Outcome State Fault Refusal :=
  .next ((loadBlock s.I (x.toNat + 1) s).setI (indexAfterBlock s.I x)).nextInstr

end Sys2Proof.Machine
end

