-- ==== Sys2Proof/Machine/KeypadTimers.lean ====
section
/-! DEFINITION. Keypad and timers (45_keypad_timers.md): `EX9E`, `EXA1`, `FX0A`, `FX07`, `FX15`, `FX18`. -/

namespace Sys2Proof.Machine

/-- `EX9E` (R160, R161). -/
def execSkp (x : Nibble) (s : State) : Host.Outcome State Fault Refusal :=
  .next (s.skipIf (s.keyDown (keyIndex (s.v x))))

/-- `EXA1` (R160, R162). -/
def execSknp (x : Nibble) (s : State) : Host.Outcome State Fault Refusal :=
  .next (s.skipIf (!s.keyDown (keyIndex (s.v x))))

/-- `FX0A` (R163): with no key pressed nothing is written and `pc` stays; else VX receives the least pressed key. -/
def execLdVxK (x : Nibble) (s : State) : Host.Outcome State Fault Refusal :=
  match s.lowestKey with
  | none => .next s
  | some k => .next (s.setV x (k.setWidth 8)).nextInstr

/-- `FX07` (R164). -/
def execLdVxDt (x : Nibble) (s : State) : Host.Outcome State Fault Refusal :=
  .next (s.setV x s.DT).nextInstr

/-- `FX15` (R165). -/
def execLdDtVx (x : Nibble) (s : State) : Host.Outcome State Fault Refusal :=
  .next (s.setDT (s.v x)).nextInstr

/-- `FX18` (R166). -/
def execLdStVx (x : Nibble) (s : State) : Host.Outcome State Fault Refusal :=
  .next (s.setST (s.v x)).nextInstr

end Sys2Proof.Machine
end

