-- ==== Sys2Proof/Machine/RegisterAlu.lean ====
section
/-! DEFINITION. Register load, arithmetic, logic, shift and random (42_register_alu.md). The flag is computed from the
values before the instruction and written to VF first; then the operands are read again (10_state.md R26, D10;
log 11). -/

namespace Sys2Proof.Machine

/-- `6XNN` (R121). -/
def execLdImm (x : Nibble) (nn : Byte) (s : State) : Host.Outcome State Fault Refusal :=
  .next (s.setV x nn).nextInstr

/-- `7XNN` (R122): modulo 256, no flag. -/
def execAddImm (x : Nibble) (nn : Byte) (s : State) : Host.Outcome State Fault Refusal :=
  .next (s.setV x (s.v x + nn)).nextInstr

/-- `8XY0` (R123). -/
def execLdReg (x y : Nibble) (s : State) : Host.Outcome State Fault Refusal :=
  .next (s.setV x (s.v y)).nextInstr

/-- `8XY1` (R124): VF unchanged unless X is 0xF. -/
def execOrReg (x y : Nibble) (s : State) : Host.Outcome State Fault Refusal :=
  .next (s.setV x (s.v x ||| s.v y)).nextInstr

/-- `8XY2` (R125): VF unchanged unless X is 0xF. -/
def execAndReg (x y : Nibble) (s : State) : Host.Outcome State Fault Refusal :=
  .next (s.setV x (s.v x &&& s.v y)).nextInstr

/-- `8XY3` (R126): VF unchanged unless X is 0xF. -/
def execXorReg (x y : Nibble) (s : State) : Host.Outcome State Fault Refusal :=
  .next (s.setV x (s.v x ^^^ s.v y)).nextInstr

/-- `8XY4` (R127): VF = carry. -/
def execAddReg (x y : Nibble) (s : State) : Host.Outcome State Fault Refusal :=
  let t := s.setFlag (carryFlag (s.v x) (s.v y))
  .next (t.setV x (t.v x + t.v y)).nextInstr

/-- `8XY5` (R128): VF = no borrow. -/
def execSubReg (x y : Nibble) (s : State) : Host.Outcome State Fault Refusal :=
  let t := s.setFlag (noBorrowFlag (s.v x) (s.v y))
  .next (t.setV x (t.v x - t.v y)).nextInstr

/-- `8XY6` (R129): VF = the bit shifted out of the source. -/
def execShr (x y : Nibble) (s : State) : Host.Outcome State Fault Refusal :=
  let src := shiftSource s.cfg x y
  let t := s.setFlag (shiftedOutRight (s.v src))
  .next (t.setV x (t.v src >>> 1)).nextInstr

/-- `8XY7` (R130, D9; log 10): VF = no borrow. -/
def execSubnReg (x y : Nibble) (s : State) : Host.Outcome State Fault Refusal :=
  let t := s.setFlag (noBorrowFlag (s.v y) (s.v x))
  .next (t.setV x (t.v y - t.v x)).nextInstr

/-- `8XYE` (R131): VF = the bit shifted out of the source. -/
def execShl (x y : Nibble) (s : State) : Host.Outcome State Fault Refusal :=
  let src := shiftSource s.cfg x y
  let t := s.setFlag (shiftedOutLeft (s.v src))
  .next (t.setV x (t.v src <<< 1)).nextInstr

/-- `CXNN` (R132): the Step's random byte under the mask. -/
def execRnd (x : Nibble) (nn : Byte) (s : State) : Host.Outcome State Fault Refusal :=
  .next (s.drawn.setV x (s.rand &&& nn)).nextInstr

end Sys2Proof.Machine
end

