-- ==== Sys2Proof/Machine/Step.lean ====
section
/-! DEFINITION. The Step event (40_step_cycle.md R90 to R95): halt check, fetch bounds, fetch, decode, execute. -/

namespace Sys2Proof.Machine

/-- One Step. The random input is `s.randIn`, or a free draw where the host names none (log 2). -/
def step (s : State) : Host.Outcome State Fault Refusal :=
  match s.fault with
  | some _ => .next s.beginStep
  | none =>
    if s.fetchOutOfBounds then .next (s.beginStep.raise .fetch 0x0000)
    else
      match decodeWord s.fetchWord with
      | some i => exec i s.beginStep
      | none => .next (s.beginStep.undefinedWord s.fetchWord)

/-- `s` with the table word `w` where `step` fetches next. What the fetch needs is set as well, and only where it is
missing: an empty fault latch (R91) and a `pc` from which two bytes can be fetched (R92), the reset value 0x200 where
`s` has none. At `State.reset` this is `Load` of the two bytes (46_host_events.md R174; log 22). -/
def State.withFetchWord (s : State) (_nbits w : Nat) : State :=
  let p : Word := if s.fetchOutOfBounds then 0x0200 else s.pc
  let t : State := { s with fault := none, pc := p }
  (t.writeByte (p.setWidth 12) (highByte (BitVec.ofNat 16 w))).writeByte ((p + 1).setWidth 12)
    (lowByte (BitVec.ofNat 16 w))

end Sys2Proof.Machine
end

