-- ==== Sys2Proof/Machine/HostEvents.lean ====
section
/-! DEFINITION. The events the host raises (46_host_events.md R170 to R178, 70_reset_and_hazards.md R200): "a function from
(state, event) to (state, outcome)" (00_scope.md R11). The outcome of a Step or Tick is in `State.out` and the latch. -/

namespace Sys2Proof.Machine

/-- `Reset` (R200, R201): every field of the Machine State at its reset value. The configuration stays (R34), and so
does the draw counter, so that no free draw comes twice (log 2). -/
def State.resetEvent (s : State) : State := { State.resetWith s.cfg with draws := s.draws }

/-- The writes of `Load`: `bytes[i]` to `0x200 + i`, in order (R174). -/
def loadFrom : Nat → List Byte → State → State
  | _, [], s => s
  | a, b :: rest, s => loadFrom (a + 1) rest (s.writeByte (BitVec.ofNat 12 a) b)

/-- `Load(bytes)` (R174): at most 3584 bytes; a longer list is no event of the machine (R185, I9). -/
def State.loadEvent (bytes : List Byte) (s : State) : Host.Outcome State Fault Refusal :=
  if bytes.length ≤ 3584 then .next (loadFrom 0x200 bytes s) else .refused (.romTooLong bytes.length)

/-- A timer counts down to 0 and stays there (R170). -/
def countDown (t : Byte) : Byte := if t = 0 then 0 else t - 1

/-- `Tick` (R170): both timers count down; the cue is tested before the decrement (D18; log 18). -/
def State.tickEvent (s : State) : State :=
  { s with DT := countDown s.DT, ST := countDown s.ST, out := { EventOutput.zero with audioCue := s.ST == 1 } }

/-- `SetKey(k, pressed)` (R173): an index of 16 or more cannot be written (D26). -/
def State.setKeyEvent (k : Nibble) (pressed : Bool) (s : State) : State := s.latchKey k pressed

/-- The host supplies the random input of a Step (R90). -/
def State.withRand (s : State) (r : Option Byte) : State := { s with randIn := r }

/-- `Step(rand)` (R90): one step with the host's byte on the random input, which is gone when the event ends (R34). -/
def State.stepEvent (rand : Byte) (s : State) : Host.Outcome State Fault Refusal :=
  match step (s.withRand (some rand)) with
  | .next t => .next (t.withRand none)
  | .fault r => .fault r
  | .refused r => .refused r

/-- The events of R11; the reads of R175 have no effect and are the fields and accessors of State. -/
inductive Event where
  | reset
  | load (bytes : List Byte)
  | step (rand : Byte)
  | tick
  | setKey (k : Nibble) (pressed : Bool)
deriving DecidableEq, Repr

/-- One event, one atomic transition (R57). -/
def State.apply (s : State) : Event → Host.Outcome State Fault Refusal
  | .reset => .next s.resetEvent
  | .load bytes => s.loadEvent bytes
  | .step rand => s.stepEvent rand
  | .tick => .next s.tickEvent
  | .setKey k pressed => .next (s.setKeyEvent k pressed)

/-- A sequence of events, one at a time and in order (R176). -/
def runEvents : List Event → State → Host.Outcome State Fault Refusal
  | [], s => .next s
  | e :: rest, s =>
    match s.apply e with
    | .next t => runEvents rest t
    | .fault r => .fault r
    | .refused r => .refused r

/-- `sound_active`, the level output: ST > 0 (R171). -/
def State.soundActive (s : State) : Bool := decide (s.ST.toNat > 0)

/-- The cell at column `px` and row `py`, as the host reads it (R175). -/
def State.pixel (s : State) (px py : Nat) : Bool := Display.pixel s.disp px py

end Sys2Proof.Machine
end

