-- ==== Sys2Proof/Safety.lean ====
section
/-! DEFINITION. What a safe run is (60_exceptions.md R197), what the spec says stays true of every state a run reaches
(10_state.md R28, R29), and the words in which a statement says what an instruction leaves unchanged. -/

namespace Sys2Proof.Machine

/-! ## Safe runs -/

/-- Nothing has gone wrong (R197): no fatal fault is latched. -/
def State.ok (s : State) : Prop := s.fault = none

/-- A run of events from `s` that goes well: every event exists, and no fault is latched at the end. A latched fault
stays (R187) unless the host resets, so none was latched since the last `Reset`. -/
def SafeRun (events : List Event) (s : State) : Prop := ∃ t, runEvents events s = .next t ∧ t.ok

/-! ## Invariants -/

/-- The memory is in canonical form. -/
def State.memWf (s : State) : Prop := Memory.wf (resetByte s.cfg) s.mem = true

/-- R28: `pc` is at most 0x10FE, and a return address that is held at most 0x1000. -/
structure State.pcInRange (s : State) : Prop where
  pc_le : s.pc.toNat ≤ 0x10FE
  held_le : ∀ k (h : k < s.sp.val), (s.stack[k]'(by omega)).toNat ≤ 0x1000

/-- What the cause of a latched fault says of the machine it stopped (R181, R186). -/
def FaultRecord.explains (r : FaultRecord) (s : State) : Prop :=
  match r.cause with
  | .fetch => s.pc.toNat ≥ 0x0FFF ∧ r.word = 0x0000
  | .stackOverflow => s.sp.val = 16 ∧ ∃ nnn, r.word = encode (.call nnn)
  | .stackUnderflow => s.sp.val = 0 ∧ r.word = encode .ret
  | .unimplementedOpcode => s.cfg.unimplStrict = true ∧ decodeWord r.word = none

/-- Faults are precise (R186): while a fault is latched, `pc` still holds the address of the faulting Step, and `sp` the
value the check found. -/
def State.faultPrecise (s : State) : Prop := ∀ r, s.fault = some r → r.atPc = s.pc ∧ r.explains s

/-! ## Frames: what `t` has as `s` had it -/

/-- The parts of the state beside the registers, `pc` and the configuration. -/
inductive Part where
  | index | memory | stack | display | keys | delayTimer | soundTimer | latch | output | random
deriving DecidableEq, Repr

/-- Every byte of memory. -/
def SameMemory (s t : State) : Prop := ∀ a : Addr, t.readByte a = s.readByte a

/-- `t` has every register of `s` but those of `regs`, every part of `s` but those of `parts`, and its configuration.
`pc` may differ. -/
structure Frame (regs : List Nibble) (parts : List Part) (s t : State) : Prop where
  sameRegs : ∀ i, i ∉ regs → t.v i = s.v i
  sameIndex : Part.index ∉ parts → t.I = s.I
  sameMemory : Part.memory ∉ parts → SameMemory s t
  sameStack : Part.stack ∉ parts → t.sp = s.sp ∧ t.stack = s.stack
  sameDisplay : Part.display ∉ parts → t.disp = s.disp
  sameKeys : Part.keys ∉ parts → t.key = s.key
  sameDelayTimer : Part.delayTimer ∉ parts → t.DT = s.DT
  sameSoundTimer : Part.soundTimer ∉ parts → t.ST = s.ST
  sameLatch : Part.latch ∉ parts → t.fault = s.fault
  sameOutput : Part.output ∉ parts → t.out = s.out
  sameRandom : Part.random ∉ parts → t.randIn = s.randIn ∧ t.draws = s.draws
  sameConfig : t.cfg = s.cfg

/-! ## Steps and sprites -/

/-- The next Step of `s` executes `i`: no fault is latched (R91), the fetch is in bounds (R92), and the word made of the
bytes at `pc` and `pc + 1`, high byte first, decodes to `i` (R93). -/
def Executes (s : State) (i : Instr) : Prop :=
  s.fault = none ∧ s.pc.toNat ≤ 0x0FFE ∧
    decode [s.readByte (BitVec.ofNat 12 s.pc.toNat), s.readByte (BitVec.ofNat 12 (s.pc.toNat + 1))] = .instr i []

/-- The next Step of `s` fetches the word `w`, and `w` is no instruction (R80). -/
def FetchesUndefined (s : State) (w : Word) : Prop :=
  s.fault = none ∧ s.pc.toNat ≤ 0x0FFE ∧
    decode [s.readByte (BitVec.ofNat 12 s.pc.toNat), s.readByte (BitVec.ofNat 12 (s.pc.toNat + 1))] = .undefinedWord w []

/-- A sprite of `n` rows at `(vx, vy)`, its row `r` the byte at `(i + r) mod 4096`, has a set bit on the cell at column
`px` and row `py` (R151): bit `7 - col` of row `row`, at `((vx + col) mod 64, (vy + row) mod 32)`. -/
def SpriteCovers (s : State) (vx vy n px py : Nat) : Prop :=
  ∃ row col, row < n ∧ col < 8 ∧ (s.readByte (BitVec.ofNat 12 ((s.I.toNat + row) % 4096))).getLsbD (7 - col) = true ∧
    (vx + col) % 64 = px ∧ (vy + row) % 32 = py

end Sys2Proof.Machine
end

