-- ==== Sys2Proof/Certificates/Slice0/Obligations.lean ====
section
/-! DEFINITION. The statements for the provers, from the numbered rules of spec/. The record of each is in
OBLIGATIONS.json. -/

open Sys2Proof Sys2Proof.Machine Host

/-! ## Encoding -/

/-- No bit of an encoding is dropped: every instruction, with every operand, is read back from its word (30_encoding.md
sections 1 to 4). -/
def Obligations.DecodeAfterEncode : Prop :=
  ∀ i : Instr, decodeWord (encode i) = some i ∧ decode (encodeBytes i) = .instr i [] ∧
    decodeTableWord 16 (encode i).toNat = some i

/-- A defined word has no unused bit (30_encoding.md section 4): it is the encoding of the instruction it decodes to. -/
def Obligations.EncodeAfterDecode : Prop :=
  ∀ (w : Word) (i : Instr), decodeWord w = some i → encode i = w

/-- The decoder, family by family, agrees with the opcode map of 30_encoding.md section 3 on every word: the rows whose
mask and match admit `w` are the one row of the instruction `w` decodes to, or none where `w` is undefined. It holds of
the exact matching the spec marks as its own decision D20 (log 19). -/
def Obligations.DecoderFollowsOpcodeMap : Prop :=
  ∀ w : Word, (rowsOf w).map (·.mnemonic) = (decodeWord w).toList.map Instr.mnemonic

/-- The undefined words, family by family (30_encoding.md section 4; the low nibbles of families 5, 8 and 9 are the
spec's decisions D9 and D20, logs 9 and 19). -/
def Obligations.UndefinedWordsByFamily : Prop :=
  ∀ w : Word, decodeWord w = none ↔
    (w.toNat / 4096 = 0x0 ∧ w.toNat ≠ 0x00E0 ∧ w.toNat ≠ 0x00EE) ∨
    (w.toNat / 4096 = 0x5 ∧ w.toNat % 16 ≠ 0) ∨
    (w.toNat / 4096 = 0x8 ∧ w.toNat % 16 ∈ [0x8, 0x9, 0xA, 0xB, 0xC, 0xD, 0xF]) ∨
    (w.toNat / 4096 = 0x9 ∧ w.toNat % 16 ≠ 0) ∨
    (w.toNat / 4096 = 0xE ∧ w.toNat % 256 ∉ [0x9E, 0xA1]) ∨
    (w.toNat / 4096 = 0xF ∧ w.toNat % 256 ∉ [0x07, 0x0A, 0x15, 0x18, 0x1E, 0x29, 0x33, 0x55, 0x65])

/-- Words written out from the spec, of families 0, 1, 5, 8, A, C, D, E and F, decode to the instruction they stand for,
and words of families 0, 5, 8, E and F that are undefined to none. They are words of 95_test_vectors.md section 2.1, but
for 0xA2F0 and 0xD12F (its section 1, S11 and S12) and 0xC30F (its section 2.3, A23). That 0x8126, 0x8127 and 0x812E are
these instructions and 0x8128 is none rests on the nibbles of family 8 (D9, log 9, PRESUMED); that 0x5121 is none rests on
exact matching (D20, log 19). -/
def Obligations.SpecWordsDecode : Prop :=
  decodeWord 0x00E0 = some .cls ∧ decodeWord 0x00EE = some .ret ∧ decodeWord 0x10E0 = some (.jp 0x0E0) ∧
  decodeWord 0x5120 = some (.seReg 1 2) ∧ decodeWord 0x8126 = some (.shr 1 2) ∧
  decodeWord 0x8127 = some (.subnReg 1 2) ∧ decodeWord 0x812E = some (.shl 1 2) ∧
  decodeWord 0xA2F0 = some (.ldI 0x2F0) ∧ decodeWord 0xC30F = some (.rnd 3 0x0F) ∧
  decodeWord 0xD12F = some (.drw 1 2 0xF) ∧ decodeWord 0xE19E = some (.skp 1) ∧
  decodeWord 0xE1A1 = some (.sknp 1) ∧ decodeWord 0xF10A = some (.ldVxK 1) ∧ decodeWord 0xF155 = some (.storeRegs 1) ∧
  decodeWord 0x0000 = none ∧ decodeWord 0x5121 = none ∧ decodeWord 0x8128 = none ∧ decodeWord 0xE19F = none ∧
  decodeWord 0xF175 = none

/-! ## The Step -/

/-- A Step executes exactly the instruction that the two bytes at `pc` encode, high byte first (40_step_cycle.md, fetch,
decode, execute): `step` is `exec` of it, on the state with the outputs of the latest event cleared (the model's own
field, log 5). -/
def Obligations.StepRunsDecodedInstruction : Prop :=
  ∀ (s : State) (i : Instr), Executes s i → step s = exec i { s with out := EventOutput.zero }

/-- A Step of a faulted machine changes nothing and reports nothing but the latched record (40_step_cycle.md, halt check:
the spec's decision D5, log 6). -/
def Obligations.FaultedStepChangesNothing : Prop :=
  ∀ (s : State) (r : FaultRecord), s.fault = some r →
    ∃ t, step s = .next t ∧ t.pc = s.pc ∧ Frame [] [.output] s t ∧ t.mem = s.mem ∧
      t.stepOutcome = { displayChanged := false, audioCue := false, unimpl := false, unimplWord := 0, fault := some r }

/-- A Step whose fetch would leave memory latches OutOfBounds.Fetch with `at_pc` the program counter and word 0, and
changes nothing else (40_step_cycle.md, fetch; the latch and its record are the spec's decisions D5 and D6, log 6). -/
def Obligations.FetchBeyondMemoryFaults : Prop :=
  ∀ s : State, s.fault = none → s.pc.toNat + 1 > 4095 →
    ∃ t, step s = .next t ∧ t.fault = some { cause := .fetch, atPc := s.pc, word := 0x0000 } ∧ t.pc = s.pc ∧
      Frame [] [.latch, .output] s t ∧ t.out = EventOutput.zero

/-- An undefined word: with UNIMPL_STRICT false it is reported and skipped, and nothing but `pc` changes; with
UNIMPL_STRICT true the fatal fault UnimplementedOpcode is latched and nothing else changes (60_exceptions.md section 2,
undefined instruction word; D5 to D7, logs 3 and 6). -/
def Obligations.UndefinedWordSkippedOrFaults : Prop :=
  ∀ (s : State) (w : Word), FetchesUndefined s w →
    (s.cfg.unimplStrict = false →
      ∃ t, step s = .next t ∧ t.pc = s.pc + 2 ∧ Frame [] [.output] s t ∧
        t.out = { displayChanged := false, audioCue := false, unimpl := true, unimplWord := w }) ∧
    (s.cfg.unimplStrict = true →
      ∃ t, step s = .next t ∧ t.pc = s.pc ∧ Frame [] [.latch, .output] s t ∧
        t.fault = some { cause := .unimplementedOpcode, atPc := s.pc, word := w } ∧ t.out = EventOutput.zero)

/-- The machine never stops on its own: from every state a Step answers a next state (00_scope.md section 5, R11: the
machine is a function from state and event; 60_exceptions.md section 3 for the latch, log 6). -/
def Obligations.EveryStepCompletes : Prop :=
  ∀ s : State, ∃ t, step s = .next t

/-- The outcome bits of a Step (40_step_cycle.md, step outcome; D17 and D18, logs 17 and 18): `display_changed` exactly
when it executed `00E0` or `DXYN`, `audio_cue` never, `unimpl` exactly when it skipped an undefined word, which is then
`unimpl_word`, else 0. -/
def Obligations.StepOutcomeBits : Prop :=
  ∀ s t : State, step s = .next t →
    (t.out.displayChanged = true ↔ Executes s .cls ∨ ∃ x y n, Executes s (.drw x y n)) ∧
    t.out.audioCue = false ∧
    (t.out.unimpl = true ↔ s.cfg.unimplStrict = false ∧ ∃ w, FetchesUndefined s w) ∧
    (∀ w, FetchesUndefined s w → s.cfg.unimplStrict = false → t.out.unimplWord = w) ∧
    (t.out.unimpl = false → t.out.unimplWord = 0)

/-- A word put where the machine fetches is what the next Step runs, from every state, faulted or out of bounds ones
included (20_memory.md section 6, instruction-fetch coherence; `withFetchWord` is the model's, log 22). -/
def Obligations.PlacedWordRunsNext : Prop :=
  ∀ (s : State) (i : Instr), Executes (s.withFetchWord 16 (encode i).toNat) i ∧
    step (s.withFetchWord 16 (encode i).toNat) =
      exec i { s.withFetchWord 16 (encode i).toNat with out := EventOutput.zero }

/-! ## Control flow -/

/-- `00EE` with a return address on the stack pops it into `pc`, with no further increment; the popped entry keeps its
value (41_control_flow.md, `00EE`). -/
def Obligations.ReturnPopsReturnAddress : Prop :=
  ∀ (s : State) (h : 0 < s.sp.val),
    ∃ t, exec .ret s = .next t ∧ t.sp.val = s.sp.val - 1 ∧ t.pc = s.stack[s.sp.val - 1]'(by omega) ∧
      t.stack = s.stack ∧ Frame [] [.stack] s t

/-- `00EE` on an empty stack latches OutOfBounds.StackUnderflow and writes nothing else (41_control_flow.md, `00EE`; the
latch is the spec's decision D5, log 6). -/
def Obligations.ReturnOnEmptyStackFaults : Prop :=
  ∀ s : State, s.sp.val = 0 →
    ∃ t, exec .ret s = .next t ∧ t.fault = some { cause := .stackUnderflow, atPc := s.pc, word := 0x00EE } ∧
      t.pc = s.pc ∧ Frame [] [.latch] s t

/-- R101: `1NNN` sets `pc` to NNN and changes nothing else. -/
def Obligations.JumpSetsPc : Prop :=
  ∀ (s : State) (nnn : Addr),
    ∃ t, exec (.jp nnn) s = .next t ∧ t.pc.toNat = nnn.toNat ∧ Frame [] [] s t

/-- `2NNN` with room on the stack pushes `pc + 2` and jumps to NNN; the other entries keep their values
(41_control_flow.md, `2NNN`). -/
def Obligations.CallPushesAndJumps : Prop :=
  ∀ (s : State) (nnn : Addr) (h : s.sp.val < 16),
    ∃ t, exec (.call nnn) s = .next t ∧ t.pc.toNat = nnn.toNat ∧ t.sp.val = s.sp.val + 1 ∧
      t.stack[s.sp.val]'h = s.pc + 2 ∧
      (∀ k (hk : k < 16), k ≠ s.sp.val → t.stack[k]'hk = s.stack[k]'hk) ∧ Frame [] [.stack] s t

/-- `2NNN` on a full stack (the 17th nested call) latches OutOfBounds.StackOverflow with the call's word and writes
nothing else (41_control_flow.md, `2NNN`; STACK_DEPTH 16 is decision D1, the latch D5, logs 6 and 7). -/
def Obligations.CallOnFullStackFaults : Prop :=
  ∀ (s : State) (nnn : Addr), s.sp.val = 16 →
    ∃ t, exec (.call nnn) s = .next t ∧
      t.fault = some { cause := .stackOverflow, atPc := s.pc, word := BitVec.ofNat 16 (0x2000 + nnn.toNat) } ∧
      t.pc = s.pc ∧ Frame [] [.latch] s t

/-- R103, R104, R105, R106: the four comparing skips advance `pc` by 4 where the skip is taken and by 2 where it is not,
and change nothing else. -/
def Obligations.SkipsCompare : Prop :=
  ∀ (s : State) (x y : Nibble) (nn : Byte),
    (∃ t, exec (.seImm x nn) s = .next t ∧ t.pc = s.pc + (if s.v x = nn then 4 else 2) ∧ Frame [] [] s t) ∧
    (∃ t, exec (.sneImm x nn) s = .next t ∧ t.pc = s.pc + (if s.v x ≠ nn then 4 else 2) ∧ Frame [] [] s t) ∧
    (∃ t, exec (.seReg x y) s = .next t ∧ t.pc = s.pc + (if s.v x = s.v y then 4 else 2) ∧ Frame [] [] s t) ∧
    (∃ t, exec (.sneReg x y) s = .next t ∧ t.pc = s.pc + (if s.v x ≠ s.v y then 4 else 2) ∧ Frame [] [] s t)

/-- `BNNN` (41_control_flow.md) sets `pc` to NNN plus V0 and changes nothing else; that the sum is not reduced modulo 4096
is the spec's own inference. -/
def Obligations.JumpWithOffset : Prop :=
  ∀ (s : State) (nnn : Addr),
    ∃ t, exec (.jpV0 nnn) s = .next t ∧ t.pc.toNat = nnn.toNat + (s.v 0).toNat ∧ Frame [] [] s t

/-- The law of call and return (41_control_flow.md, which derives it): after a Step that calls, a Step that returns with
the same `sp` as just after the call and the same stack entry gives the call's `pc + 2` and its `sp`. -/
def Obligations.CallThenReturnRestores : Prop :=
  ∀ (s t u : State) (nnn : Addr) (h : s.sp.val < 16), Executes s (.call nnn) → step s = .next t →
    Executes u .ret → u.sp = t.sp → u.stack[s.sp.val]'h = t.stack[s.sp.val]'h →
      ∃ v, step u = .next v ∧ v.pc = s.pc + 2 ∧ v.sp = s.sp

/-! ## Register ALU -/

/-- R121, R122: `6XNN` loads NN; `7XNN` adds NN modulo 256, with no flag. VF changes only where it is VX. -/
def Obligations.LoadAndAddImmediate : Prop :=
  ∀ (s : State) (x : Nibble) (nn : Byte),
    (∃ t, exec (.ldImm x nn) s = .next t ∧ t.v x = nn ∧ t.pc = s.pc + 2 ∧ Frame [x] [] s t) ∧
    (∃ t, exec (.addImm x nn) s = .next t ∧ (t.v x).toNat = ((s.v x).toNat + nn.toNat) % 256 ∧ t.pc = s.pc + 2 ∧
      Frame [x] [] s t)

/-- R123, R124, R125, R126: assign, OR, AND, XOR into VX, bit by bit; VF is unchanged unless it is VX. -/
def Obligations.MoveAndLogic : Prop :=
  ∀ (s : State) (x y : Nibble),
    (∃ t, exec (.ldReg x y) s = .next t ∧ t.v x = s.v y ∧ t.pc = s.pc + 2 ∧ Frame [x] [] s t) ∧
    (∃ t, exec (.orReg x y) s = .next t ∧
      (∀ b, b < 8 → (t.v x).getLsbD b = ((s.v x).getLsbD b || (s.v y).getLsbD b)) ∧ t.pc = s.pc + 2 ∧
      Frame [x] [] s t) ∧
    (∃ t, exec (.andReg x y) s = .next t ∧
      (∀ b, b < 8 → (t.v x).getLsbD b = ((s.v x).getLsbD b && (s.v y).getLsbD b)) ∧ t.pc = s.pc + 2 ∧
      Frame [x] [] s t) ∧
    (∃ t, exec (.xorReg x y) s = .next t ∧
      (∀ b, b < 8 → (t.v x).getLsbD b = ((s.v x).getLsbD b ^^ (s.v y).getLsbD b)) ∧ t.pc = s.pc + 2 ∧
      Frame [x] [] s t)

/-- `8XY4` (42_register_alu.md): the carry `f` of the values before the instruction goes to VF first, then the sum is
taken of the operands as they then stand (10_state.md section 4; the order is the spec's decision D10, log 11). -/
def Obligations.AddWithCarry : Prop :=
  ∀ (s : State) (x y : Nibble) (f : Nat), f = (if (s.v x).toNat + (s.v y).toNat > 255 then 1 else 0) →
    ∃ t, exec (.addReg x y) s = .next t ∧ t.pc = s.pc + 2 ∧ Frame [x, 0xF] [] s t ∧
      (x ≠ 0xF → (t.v 0xF).toNat = f) ∧
      (x ≠ 0xF → y ≠ 0xF → (t.v x).toNat = ((s.v x).toNat + (s.v y).toNat) % 256) ∧
      (x ≠ 0xF → y = 0xF → (t.v x).toNat = ((s.v x).toNat + f) % 256) ∧
      (x = 0xF → y ≠ 0xF → (t.v 0xF).toNat = (f + (s.v y).toNat) % 256) ∧
      (x = 0xF → y = 0xF → (t.v 0xF).toNat = 2 * f)

/-- `8XY5` and `8XY7` (42_register_alu.md): the no-borrow flag `f` of the values before the instruction (equal operands
give 1: D27, log 20) goes to VF first, then the difference is taken of the operands as they then stand (D10, log 11; the
meaning of `8XY7` is the spec's D9, log 10). -/
def Obligations.SubtractWithBorrow : Prop :=
  ∀ (s : State) (x y : Nibble),
    (∀ f, f = (if (s.v x).toNat ≥ (s.v y).toNat then 1 else 0) →
      ∃ t, exec (.subReg x y) s = .next t ∧ t.pc = s.pc + 2 ∧ Frame [x, 0xF] [] s t ∧
        (x ≠ 0xF → (t.v 0xF).toNat = f) ∧
        (x ≠ 0xF → y ≠ 0xF → (t.v x).toNat = (256 + (s.v x).toNat - (s.v y).toNat) % 256) ∧
        (x ≠ 0xF → y = 0xF → (t.v x).toNat = (256 + (s.v x).toNat - f) % 256) ∧
        (x = 0xF → y ≠ 0xF → (t.v 0xF).toNat = (256 + f - (s.v y).toNat) % 256) ∧
        (x = 0xF → y = 0xF → (t.v 0xF).toNat = 0)) ∧
    (∀ f, f = (if (s.v y).toNat ≥ (s.v x).toNat then 1 else 0) →
      ∃ t, exec (.subnReg x y) s = .next t ∧ t.pc = s.pc + 2 ∧ Frame [x, 0xF] [] s t ∧
        (x ≠ 0xF → (t.v 0xF).toNat = f) ∧
        (x ≠ 0xF → y ≠ 0xF → (t.v x).toNat = (256 + (s.v y).toNat - (s.v x).toNat) % 256) ∧
        (x ≠ 0xF → y = 0xF → (t.v x).toNat = (256 + f - (s.v x).toNat) % 256) ∧
        (x = 0xF → y ≠ 0xF → (t.v 0xF).toNat = (256 + (s.v y).toNat - f) % 256) ∧
        (x = 0xF → y = 0xF → (t.v 0xF).toNat = 0))

/-- `8XY6` and `8XYE` (42_register_alu.md), under both settings of SHIFT_USES_VY (the source `src`, D8, log 3): the bit
shifted out goes to VF first, then the source as it then stands is shifted by one into VX (D10, log 11). -/
def Obligations.ShiftByOne : Prop :=
  ∀ (s : State) (x y src : Nibble), src = (if s.cfg.shiftUsesVY then y else x) →
    (∃ t, exec (.shr x y) s = .next t ∧ t.pc = s.pc + 2 ∧ Frame [x, 0xF] [] s t ∧
      (x ≠ 0xF → (t.v 0xF).toNat = (s.v src).toNat % 2) ∧
      (src ≠ 0xF → (t.v x).toNat = (s.v src).toNat / 2) ∧
      (src = 0xF → (t.v x).toNat = 0)) ∧
    (∃ t, exec (.shl x y) s = .next t ∧ t.pc = s.pc + 2 ∧ Frame [x, 0xF] [] s t ∧
      (x ≠ 0xF → (t.v 0xF).toNat = (s.v src).toNat / 128) ∧
      (src ≠ 0xF → (t.v x).toNat = (s.v src).toNat * 2 % 256) ∧
      (src = 0xF → (t.v x).toNat = (s.v src).toNat / 128 * 2))

/-- `CXNN` (42_register_alu.md): VX receives the random byte under the mask. The byte is the host's where the host names
it, else the free draw `Config.freeRand s.draws`, of which nothing is known (D19, log 2): the claim is for every value. -/
def Obligations.RandomUnderMask : Prop :=
  ∀ (s : State) (x : Nibble) (nn : Byte),
    ∃ t, exec (.rnd x nn) s = .next t ∧ t.pc = s.pc + 2 ∧ Frame [x] [.random] s t ∧
      (∀ r, s.randIn = some r → t.v x = r &&& nn) ∧
      (s.randIn = none → t.v x = Config.freeRand s.draws &&& nn) ∧
      t.randIn = none ∧ t.draws = s.draws + 1

/-- `Step(rand)` of a machine at a `CXNN`, for every byte `rand` (40_step_cycle.md, 42_register_alu.md section 4). -/
def Obligations.StepDrawsHostByte : Prop :=
  ∀ (s : State) (x : Nibble) (nn rand : Byte), Executes s (.rnd x nn) →
    ∃ t, s.apply (.step rand) = .next t ∧ t.v x = rand &&& nn ∧ t.pc = s.pc + 2 ∧ Frame [x] [.random, .output] s t

/-- A Step that executes any other instruction ignores `rand` (42_register_alu.md section 4). -/
def Obligations.OnlyRandomReadsRand : Prop :=
  ∀ (s : State) (r₁ r₂ : Byte), (∀ x nn, ¬ Executes s (.rnd x nn)) → s.apply (.step r₁) = s.apply (.step r₂)

/-! ## Index register and memory -/

/-- R140: `ANNN` loads NNN into `I`, its four high bits 0. -/
def Obligations.LoadIndex : Prop :=
  ∀ (s : State) (nnn : Addr),
    ∃ t, exec (.ldI nnn) s = .next t ∧ t.I.toNat = nnn.toNat ∧ t.pc = s.pc + 2 ∧ Frame [] [.index] s t

/-- `FX1E` (43_index_memory.md): the flag `f` of the sum on naturals goes to VF first, then VX as it then stands is added
to `I`, modulo 65536 and not masked to 12 bits (D11, D12, logs 11 and 13). -/
def Obligations.AddToIndex : Prop :=
  ∀ (s : State) (x : Nibble) (f : Nat), f = (if s.I.toNat + (s.v x).toNat > 0x0FFF then 1 else 0) →
    ∃ t, exec (.addI x) s = .next t ∧ t.pc = s.pc + 2 ∧ Frame [0xF] [.index] s t ∧ (t.v 0xF).toNat = f ∧
      (x ≠ 0xF → t.I.toNat = (s.I.toNat + (s.v x).toNat) % 65536) ∧
      (x = 0xF → t.I.toNat = (s.I.toNat + f) % 65536)

/-- `FX29` (43_index_memory.md): `I` becomes VX times 5, for every VX (no mask: D15, log 15). -/
def Obligations.GlyphAddress : Prop :=
  ∀ (s : State) (x : Nibble),
    ∃ t, exec (.ldF x) s = .next t ∧ t.I.toNat = (s.v x).toNat * 5 ∧ t.pc = s.pc + 2 ∧ Frame [] [.index] s t

/-- `FX33` (43_index_memory.md) stores the hundreds, tens and ones of VX at `EA(0)`, `EA(1)`, `EA(2)`, and every other
byte of memory keeps its value; `I` is not changed. That `EA` is masked is the spec's decision D13 (log 12). -/
def Obligations.DecimalDigitsStored : Prop :=
  ∀ (s : State) (x : Nibble),
    ∃ t, exec (.ldB x) s = .next t ∧
      (t.readByte (ea s.I 0)).toNat = (s.v x).toNat / 100 ∧
      (t.readByte (ea s.I 1)).toNat = (s.v x).toNat / 10 % 10 ∧
      (t.readByte (ea s.I 2)).toNat = (s.v x).toNat % 10 ∧
      (∀ a : Addr, (∀ k, k < 3 → a ≠ ea s.I k) → t.readByte a = s.readByte a) ∧
      t.pc = s.pc + 2 ∧ Frame [] [.memory] s t

/-- `FX55` (43_index_memory.md): V0 to VX go to `EA(0)` to `EA(X)` with `I` as it was at the start, every other byte of
memory keeps its value, and `I` advances by X + 1 modulo 65536 (D12, D13, logs 12 and 13). -/
def Obligations.RegistersStored : Prop :=
  ∀ (s : State) (x : Nibble),
    ∃ t, exec (.storeRegs x) s = .next t ∧
      (∀ k : Nibble, k.toNat ≤ x.toNat → t.readByte (ea s.I k.toNat) = s.v k) ∧
      (∀ a : Addr, (∀ k, k ≤ x.toNat → a ≠ ea s.I k) → t.readByte a = s.readByte a) ∧
      t.I.toNat = (s.I.toNat + x.toNat + 1) % 65536 ∧ t.pc = s.pc + 2 ∧ Frame [] [.memory, .index] s t

/-- `FX65` (43_index_memory.md): V0 to VX are loaded from `EA(0)` to `EA(X)` with `I` as it was at the start, the
registers above VX are unchanged, and `I` advances by X + 1 modulo 65536 (D12, D13, logs 12 and 13). -/
def Obligations.RegistersLoaded : Prop :=
  ∀ (s : State) (x : Nibble),
    ∃ t, exec (.loadRegs x) s = .next t ∧
      (∀ k : Nibble, k.toNat ≤ x.toNat → t.v k = s.readByte (ea s.I k.toNat)) ∧
      (∀ k : Nibble, x.toNat < k.toNat → t.v k = s.v k) ∧
      t.I.toNat = (s.I.toNat + x.toNat + 1) % 65536 ∧ t.pc = s.pc + 2 ∧
      Frame ((List.range 16).map (BitVec.ofNat 4)) [.index] s t

/-- The data address (20_memory.md section 4, D13, log 12): the sum on naturals, modulo 4096; the addresses of one
instruction are pairwise distinct. -/
def Obligations.DataAddressWraps : Prop :=
  ∀ (i : Word) (k : Nat), (ea i k).toNat = (i.toNat + k) % 4096 ∧
    ∀ j, j < 16 → k < 16 → ea i j = ea i k → j = k

/-! ## Display -/

/-- `00E0` (44_display.md): all 2048 cells off, VF untouched, and `display_changed` whatever they were (D17, log 17). -/
def Obligations.ClearDisplay : Prop :=
  ∀ s : State, ∃ t, exec .cls s = .next t ∧ (∀ px py, px < 64 → py < 32 → t.pixel px py = false) ∧
    t.out = { s.out with displayChanged := true } ∧ t.pc = s.pc + 2 ∧ Frame [] [.display, .output] s t

/-- `DXYN` (44_display.md): a cell is toggled exactly where the sprite, wrapping at both edges and anchored at the VX and
VY the instruction began with, has a set bit; every other cell keeps its value; `display_changed` is set (D16,
log 16). -/
def Obligations.SpriteTogglesCoveredCells : Prop :=
  ∀ (s : State) (x y n : Nibble),
    ∃ t, exec (.drw x y n) s = .next t ∧ t.pc = s.pc + 2 ∧ Frame [0xF] [.display, .output] s t ∧
      t.out = { s.out with displayChanged := true } ∧
      ∀ px py, px < 64 → py < 32 →
        (SpriteCovers s (s.v x).toNat (s.v y).toNat n.toNat px py → t.pixel px py = !s.pixel px py) ∧
        (¬ SpriteCovers s (s.v x).toNat (s.v y).toNat n.toNat px py → t.pixel px py = s.pixel px py)

/-- `DXYN` (44_display.md): VF ends as 1 if any covered cell was on before the instruction, else as 0 (D16, log 16). -/
def Obligations.SpriteCollisionFlag : Prop :=
  ∀ (s : State) (x y n : Nibble),
    ∃ t, exec (.drw x y n) s = .next t ∧
      ((∃ px py, px < 64 ∧ py < 32 ∧ SpriteCovers s (s.v x).toNat (s.v y).toNat n.toNat px py ∧ s.pixel px py = true) →
        t.v 0xF = 1) ∧
      (¬ (∃ px py, px < 64 ∧ py < 32 ∧ SpriteCovers s (s.v x).toNat (s.v y).toNat n.toNat px py ∧
        s.pixel px py = true) → t.v 0xF = 0)

/-- The law of the double draw (44_display.md, which derives it): the same sprite at the same place a second time, with
nothing else changing the display in between, restores it. VF is then 1 if some cell under a set bit of the sprite was off
before the first draw, else 0; so it is 1 for every sprite with a set bit drawn on a blank display, and 0 for a sprite
without one. The clauses on VF are the model's reading (log 25, DEDUCED from the rule of `DXYN`) OVER the sentence of the
law, which gives 1 for every sprite with a set bit: that does not follow where every such cell was on before the first
draw. -/
def Obligations.DoubleDrawRestores : Prop :=
  ∀ (s t u : State) (x y n : Nibble), exec (.drw x y n) s = .next t →
    u.disp = t.disp → u.I = s.I → u.v x = s.v x → u.v y = s.v y →
    (∀ k, k < n.toNat → u.readByte (ea s.I k) = s.readByte (ea s.I k)) →
      ∃ v, exec (.drw x y n) u = .next v ∧ v.disp = s.disp ∧
        ((∃ px py, px < 64 ∧ py < 32 ∧ SpriteCovers s (s.v x).toNat (s.v y).toNat n.toNat px py ∧
          s.pixel px py = false) → v.v 0xF = 1) ∧
        (¬ (∃ px py, px < 64 ∧ py < 32 ∧ SpriteCovers s (s.v x).toNat (s.v y).toNat n.toNat px py ∧
          s.pixel px py = false) → v.v 0xF = 0) ∧
        ((∀ px py, s.pixel px py = false) → (∃ k, k < n.toNat ∧ s.readByte (ea s.I k) ≠ 0) → v.v 0xF = 1) ∧
        ((∀ k, k < n.toNat → s.readByte (ea s.I k) = 0) → v.v 0xF = 0)

/-! ## Keypad and timers -/

/-- `EX9E` skips if the key numbered by the low 4 bits of VX is pressed, `EXA1` if it is not (45_keypad_timers.md; the
mask is the spec's decision D14, log 14). -/
def Obligations.KeySkips : Prop :=
  ∀ (s : State) (x : Nibble) (k : Nat) (hk : k < 16), k = (s.v x).toNat % 16 →
    (∃ t, exec (.skp x) s = .next t ∧ t.pc = s.pc + (if s.key[k]'hk = true then 4 else 2) ∧ Frame [] [] s t) ∧
    (∃ t, exec (.sknp x) s = .next t ∧ t.pc = s.pc + (if s.key[k]'hk = false then 4 else 2) ∧ Frame [] [] s t)

/-- `FX0A` (45_keypad_timers.md): with no key pressed the whole state is unchanged (D29, log 21); else VX receives the
least pressed key and the machine goes on. -/
def Obligations.KeyWait : Prop :=
  ∀ (s : State) (x : Nibble),
    ((∀ k (hk : k < 16), s.key[k]'hk = false) → exec (.ldVxK x) s = .next s) ∧
    (∀ k (hk : k < 16), s.key[k]'hk = true → (∀ j (hj : j < k), s.key[j]'(by omega) = false) →
      ∃ t, exec (.ldVxK x) s = .next t ∧ (t.v x).toNat = k ∧ t.pc = s.pc + 2 ∧ Frame [x] [] s t)

/-- R164, R165: `FX07` reads DT, `FX15` writes DT; and `FX18` writes ST (45_keypad_timers.md). -/
def Obligations.TimerMoves : Prop :=
  ∀ (s : State) (x : Nibble),
    (∃ t, exec (.ldVxDt x) s = .next t ∧ t.v x = s.DT ∧ t.pc = s.pc + 2 ∧ Frame [x] [] s t) ∧
    (∃ t, exec (.ldDtVx x) s = .next t ∧ t.DT = s.v x ∧ t.pc = s.pc + 2 ∧ Frame [] [.delayTimer] s t) ∧
    (∃ t, exec (.ldStVx x) s = .next t ∧ t.ST = s.v x ∧ t.pc = s.pc + 2 ∧ Frame [] [.soundTimer] s t)

/-! ## Host events -/

/-- `Tick` (46_host_events.md): each timer above 0 goes down by 1, a timer at 0 stays, the cue is 1 exactly when ST was 1
before (D18, log 18), and nothing else is read or written, a latched fault included. -/
def Obligations.TickCountsDown : Prop :=
  ∀ s : State, ∃ t, s.apply .tick = .next t ∧ t.DT.toNat = s.DT.toNat - 1 ∧ t.ST.toNat = s.ST.toNat - 1 ∧
    (t.out.audioCue = true ↔ s.ST.toNat = 1) ∧ t.pc = s.pc ∧ Frame [] [.delayTimer, .soundTimer, .output] s t

/-- `SetKey` (46_host_events.md): one latch takes the level, and nothing else changes. -/
def Obligations.SetKeyLatchesOne : Prop :=
  ∀ (s : State) (k : Nibble) (p : Bool), ∃ t, s.apply (.setKey k p) = .next t ∧ t.keyDown k = p ∧
    (∀ j, j ≠ k → t.keyDown j = s.keyDown j) ∧ t.pc = s.pc ∧ Frame [] [.keys] s t

/-- `Load` (46_host_events.md): the bytes go verbatim to 0x200 on, and nothing else changes; more than 3584 bytes are no
event of the machine and are refused by name (D23, log 23). -/
def Obligations.LoadWritesProgram : Prop :=
  ∀ (s : State) (bytes : List Byte),
    (bytes.length ≤ 3584 →
      ∃ t, s.apply (.load bytes) = .next t ∧
        (∀ i (h : i < bytes.length), t.readByte (BitVec.ofNat 12 (0x200 + i)) = bytes[i]) ∧
        (∀ a : Addr, a.toNat < 0x200 ∨ 0x200 + bytes.length ≤ a.toNat → t.readByte a = s.readByte a) ∧
        t.pc = s.pc ∧ Frame [] [.memory] s t) ∧
    (3584 < bytes.length → s.apply (.load bytes) = .refused (.romTooLong bytes.length))

/-- R200: after `Reset`, from any state, memory holds FONT at 0x000 to 0x04F and 0 elsewhere, `pc` is 0x200, everything
else is 0, and no fault is latched. -/
def Obligations.ResetValues : Prop :=
  ∀ s : State, ∃ t, s.apply .reset = .next t ∧
    (∀ (d r : Nat) (hd : d < 16) (hr : r < 5), t.readByte (BitVec.ofNat 12 (5 * d + r)) = (s.cfg.font[d]'hd)[r]'hr) ∧
    (∀ a : Addr, 0x050 ≤ a.toNat → t.readByte a = 0) ∧
    (∀ i, t.v i = 0) ∧ t.I = 0 ∧ t.pc = 0x200 ∧ (∀ k (hk : k < 16), t.stack[k]'hk = 0) ∧ t.sp.val = 0 ∧
    (∀ px py, t.pixel px py = false) ∧ (∀ k, t.keyDown k = false) ∧ t.DT = 0 ∧ t.ST = 0 ∧ t.fault = none

/-- The model's `State.reset` is what `Reset` gives with the default configuration (logs 2 and 3): the outputs and the
random input are cleared too. -/
def Obligations.ResetGivesResetState : Prop :=
  ∀ s : State, s.cfg = defaultConfig → s.draws = State.reset.draws → s.apply .reset = .next State.reset

/-! ## Invariants -/

/-- The memory keeps its canonical form, through every event and every Step, from every state (the model's form of
memory, log 8). -/
def Obligations.CanonicalMemoryKept : Prop :=
  ∀ s t : State, s.memWf → (step s = .next t → t.memWf) ∧ (∀ e, s.apply e = .next t → t.memWf)

/-- Canonical memories of one configuration that read alike are the same list (log 8). -/
def Obligations.CanonicalMemoryUnique : Prop :=
  ∀ s t : State, s.memWf → t.memWf → s.cfg = t.cfg → SameMemory s t → s.mem = t.mem

/-- 10_state.md section 5: `pc` stays at most 0x10FE and a held return address at most 0x1000, through every event, so
that the 16-bit `pc` never overflows (derived by the spec). -/
def Obligations.PcRangeKept : Prop :=
  ∀ s t : State, s.pcInRange → (step s = .next t → t.pcInRange) ∧ (∀ e, s.apply e = .next t → t.pcInRange)

/-- 60_exceptions.md section 3: faults are precise. While a fault is latched, `at_pc` is the `pc` it was raised at and
still holds, and the state is as the cause says; every event keeps this (the latch is decision D5, log 6). -/
def Obligations.FaultsStayPrecise : Prop :=
  ∀ s t : State, s.faultPrecise → (step s = .next t → t.faultPrecise) ∧ (∀ e, s.apply e = .next t → t.faultPrecise)

/-- 60_exceptions.md section 3: once a fault is latched only `Reset` clears it; no other event changes the record, `pc`,
the registers, `I`, the stack or the display; and the other events still answer a next state but for an oversized
`Load` (D5, D24, logs 6 and 24). -/
def Obligations.FaultLatchIsSticky : Prop :=
  ∀ (s : State) (r : FaultRecord) (e : Event), s.fault = some r → e ≠ .reset →
    (∀ bytes, e = .load bytes → bytes.length ≤ 3584) →
      ∃ t, s.apply e = .next t ∧ t.fault = some r ∧ t.pc = s.pc ∧
        Frame [] [.memory, .keys, .delayTimer, .soundTimer, .output, .random] s t

/-- 10_state.md section 7: the configuration is fixed for the life of the machine. -/
def Obligations.ConfigurationIsFixed : Prop :=
  ∀ s t : State, (step s = .next t → t.cfg = s.cfg) ∧ (∀ e, s.apply e = .next t → t.cfg = s.cfg)

/-- The invariants hold at `State.reset`: memory is in canonical form (`memWf`), `pc` and the held return addresses are in
range (`pcInRange`), a latched fault is precise (`faultPrecise`), and none is latched (`ok`). The first clause is about the
model's own form of memory (log 8, DESIGN CHOICE), the last two about the latch (D5, log 6), and `State.reset` has the
default configuration (log 3, DESIGN CHOICE) with the default font (log 4, PRESUMED). -/
def Obligations.InvariantsHoldAtReset : Prop :=
  State.reset.memWf ∧ State.reset.pcInRange ∧ State.reset.faultPrecise ∧ State.reset.ok

/-! ## What only some instructions do -/

/-- 10_state.md section 5: no instruction other than `2NNN` and `00EE` writes `stack` or `sp`. -/
def Obligations.OnlyCallAndReturnTouchStack : Prop :=
  ∀ s t : State, step s = .next t → (t.sp ≠ s.sp ∨ t.stack ≠ s.stack) → Executes s .ret ∨ ∃ nnn, Executes s (.call nnn)

/-- 10_state.md section 10: a Step changes a byte of memory only by `FX33` or `FX55`, and only at an address that
instruction stores to. -/
def Obligations.OnlyStoresWriteMemory : Prop :=
  ∀ (s t : State) (a : Addr), step s = .next t → t.readByte a ≠ s.readByte a →
    (∃ x k, Executes s (.ldB x) ∧ k < 3 ∧ a = ea s.I k) ∨
    (∃ x k, Executes s (.storeRegs x) ∧ k ≤ x.toNat ∧ a = ea s.I k)

/-- 10_state.md section 6: the display is "mutated only by the clear-screen and sprite-draw instructions". -/
def Obligations.OnlyDisplayWritersTouchDisplay : Prop :=
  ∀ s t : State, step s = .next t → t.disp ≠ s.disp → Executes s .cls ∨ ∃ x y n, Executes s (.drw x y n)

/-- 10_state.md section 6: a Step never writes a key latch, writes DT only by `FX15` and ST only by `FX18`. -/
def Obligations.StepLeavesKeysAndTimers : Prop :=
  ∀ s t : State, step s = .next t → t.key = s.key ∧ (t.DT ≠ s.DT → ∃ x, Executes s (.ldDtVx x)) ∧
    (t.ST ≠ s.ST → ∃ x, Executes s (.ldStVx x))

/-- 10_state.md section 4: VF changes only as the flag of the seven instructions that write one, or as the destination
of an instruction whose X is 0xF. -/
def Obligations.FlagRegisterWriters : Prop :=
  ∀ s t : State, step s = .next t → t.v 0xF ≠ s.v 0xF →
    ∃ i, Executes s i ∧
      ((∃ x y, i = .addReg x y ∨ i = .subReg x y ∨ i = .shr x y ∨ i = .subnReg x y ∨ i = .shl x y) ∨
       (∃ x, i = .addI x) ∨ (∃ x y n, i = .drw x y n) ∨
       (∃ nn, i = .ldImm 0xF nn ∨ i = .addImm 0xF nn ∨ i = .rnd 0xF nn) ∨
       (∃ y, i = .ldReg 0xF y ∨ i = .orReg 0xF y ∨ i = .andReg 0xF y ∨ i = .xorReg 0xF y) ∨
       i = .ldVxDt 0xF ∨ i = .ldVxK 0xF ∨ i = .loadRegs 0xF)

/-- 40_step_cycle.md section on the end of a run: a jump to itself leaves the whole Machine State unchanged, and the
next Step executes it again. -/
def Obligations.SelfJumpRepeats : Prop :=
  ∀ (s : State) (nnn : Addr), Executes s (.jp nnn) → nnn.toNat = s.pc.toNat →
    ∃ t, step s = .next t ∧ t.pc = s.pc ∧ Frame [] [.output] s t ∧ Executes t (.jp nnn)
end

