-- ==== Sys2Proof/Laws/State.lean ====
section
/-! SUPPORT. One lemma per field per update of State, and per accessor per update that leaves it alone: every one true by
definition, so that no proof unfolds an update. -/

namespace Sys2Proof.Machine

variable (s : State)

/-! ### `setV` -/

@[simp] theorem State.setV_cfg (i : Nibble) (b : Byte) : (s.setV i b).cfg = s.cfg := rfl
@[simp] theorem State.setV_mem (i : Nibble) (b : Byte) : (s.setV i b).mem = s.mem := rfl
@[simp] theorem State.setV_x (i : Nibble) (b : Byte) : (s.setV i b).x = s.x.set i.toNat b i.isLt := rfl
@[simp] theorem State.setV_I (i : Nibble) (b : Byte) : (s.setV i b).I = s.I := rfl
@[simp] theorem State.setV_pc (i : Nibble) (b : Byte) : (s.setV i b).pc = s.pc := rfl
@[simp] theorem State.setV_stack (i : Nibble) (b : Byte) : (s.setV i b).stack = s.stack := rfl
@[simp] theorem State.setV_sp (i : Nibble) (b : Byte) : (s.setV i b).sp = s.sp := rfl
@[simp] theorem State.setV_disp (i : Nibble) (b : Byte) : (s.setV i b).disp = s.disp := rfl
@[simp] theorem State.setV_key (i : Nibble) (b : Byte) : (s.setV i b).key = s.key := rfl
@[simp] theorem State.setV_DT (i : Nibble) (b : Byte) : (s.setV i b).DT = s.DT := rfl
@[simp] theorem State.setV_ST (i : Nibble) (b : Byte) : (s.setV i b).ST = s.ST := rfl
@[simp] theorem State.setV_fault (i : Nibble) (b : Byte) : (s.setV i b).fault = s.fault := rfl
@[simp] theorem State.setV_out (i : Nibble) (b : Byte) : (s.setV i b).out = s.out := rfl
@[simp] theorem State.setV_randIn (i : Nibble) (b : Byte) : (s.setV i b).randIn = s.randIn := rfl
@[simp] theorem State.setV_draws (i : Nibble) (b : Byte) : (s.setV i b).draws = s.draws := rfl
@[simp] theorem State.setV_readByte (i : Nibble) (b : Byte) (q : Addr) : (s.setV i b).readByte q = s.readByte q := rfl
@[simp] theorem State.setV_keyDown (i : Nibble) (b : Byte) (j : Nibble) : (s.setV i b).keyDown j = s.keyDown j := rfl
@[simp] theorem State.setV_pixel (i : Nibble) (b : Byte) (px py : Nat) : (s.setV i b).pixel px py = s.pixel px py := rfl
@[simp] theorem State.setV_rand (i : Nibble) (b : Byte) : (s.setV i b).rand = s.rand := rfl

/-! ### `setI` -/

@[simp] theorem State.setI_cfg (w : Word) : (s.setI w).cfg = s.cfg := rfl
@[simp] theorem State.setI_mem (w : Word) : (s.setI w).mem = s.mem := rfl
@[simp] theorem State.setI_x (w : Word) : (s.setI w).x = s.x := rfl
@[simp] theorem State.setI_I (w : Word) : (s.setI w).I = w := rfl
@[simp] theorem State.setI_pc (w : Word) : (s.setI w).pc = s.pc := rfl
@[simp] theorem State.setI_stack (w : Word) : (s.setI w).stack = s.stack := rfl
@[simp] theorem State.setI_sp (w : Word) : (s.setI w).sp = s.sp := rfl
@[simp] theorem State.setI_disp (w : Word) : (s.setI w).disp = s.disp := rfl
@[simp] theorem State.setI_key (w : Word) : (s.setI w).key = s.key := rfl
@[simp] theorem State.setI_DT (w : Word) : (s.setI w).DT = s.DT := rfl
@[simp] theorem State.setI_ST (w : Word) : (s.setI w).ST = s.ST := rfl
@[simp] theorem State.setI_fault (w : Word) : (s.setI w).fault = s.fault := rfl
@[simp] theorem State.setI_out (w : Word) : (s.setI w).out = s.out := rfl
@[simp] theorem State.setI_randIn (w : Word) : (s.setI w).randIn = s.randIn := rfl
@[simp] theorem State.setI_draws (w : Word) : (s.setI w).draws = s.draws := rfl
@[simp] theorem State.setI_v (w : Word) (j : Nibble) : (s.setI w).v j = s.v j := rfl
@[simp] theorem State.setI_readByte (w : Word) (q : Addr) : (s.setI w).readByte q = s.readByte q := rfl
@[simp] theorem State.setI_keyDown (w : Word) (j : Nibble) : (s.setI w).keyDown j = s.keyDown j := rfl
@[simp] theorem State.setI_pixel (w : Word) (px py : Nat) : (s.setI w).pixel px py = s.pixel px py := rfl
@[simp] theorem State.setI_rand (w : Word) : (s.setI w).rand = s.rand := rfl

/-! ### `setDT` -/

@[simp] theorem State.setDT_cfg (b : Byte) : (s.setDT b).cfg = s.cfg := rfl
@[simp] theorem State.setDT_mem (b : Byte) : (s.setDT b).mem = s.mem := rfl
@[simp] theorem State.setDT_x (b : Byte) : (s.setDT b).x = s.x := rfl
@[simp] theorem State.setDT_I (b : Byte) : (s.setDT b).I = s.I := rfl
@[simp] theorem State.setDT_pc (b : Byte) : (s.setDT b).pc = s.pc := rfl
@[simp] theorem State.setDT_stack (b : Byte) : (s.setDT b).stack = s.stack := rfl
@[simp] theorem State.setDT_sp (b : Byte) : (s.setDT b).sp = s.sp := rfl
@[simp] theorem State.setDT_disp (b : Byte) : (s.setDT b).disp = s.disp := rfl
@[simp] theorem State.setDT_key (b : Byte) : (s.setDT b).key = s.key := rfl
@[simp] theorem State.setDT_DT (b : Byte) : (s.setDT b).DT = b := rfl
@[simp] theorem State.setDT_ST (b : Byte) : (s.setDT b).ST = s.ST := rfl
@[simp] theorem State.setDT_fault (b : Byte) : (s.setDT b).fault = s.fault := rfl
@[simp] theorem State.setDT_out (b : Byte) : (s.setDT b).out = s.out := rfl
@[simp] theorem State.setDT_randIn (b : Byte) : (s.setDT b).randIn = s.randIn := rfl
@[simp] theorem State.setDT_draws (b : Byte) : (s.setDT b).draws = s.draws := rfl
@[simp] theorem State.setDT_v (b : Byte) (j : Nibble) : (s.setDT b).v j = s.v j := rfl
@[simp] theorem State.setDT_readByte (b : Byte) (q : Addr) : (s.setDT b).readByte q = s.readByte q := rfl
@[simp] theorem State.setDT_keyDown (b : Byte) (j : Nibble) : (s.setDT b).keyDown j = s.keyDown j := rfl
@[simp] theorem State.setDT_pixel (b : Byte) (px py : Nat) : (s.setDT b).pixel px py = s.pixel px py := rfl
@[simp] theorem State.setDT_rand (b : Byte) : (s.setDT b).rand = s.rand := rfl

/-! ### `setST` -/

@[simp] theorem State.setST_cfg (b : Byte) : (s.setST b).cfg = s.cfg := rfl
@[simp] theorem State.setST_mem (b : Byte) : (s.setST b).mem = s.mem := rfl
@[simp] theorem State.setST_x (b : Byte) : (s.setST b).x = s.x := rfl
@[simp] theorem State.setST_I (b : Byte) : (s.setST b).I = s.I := rfl
@[simp] theorem State.setST_pc (b : Byte) : (s.setST b).pc = s.pc := rfl
@[simp] theorem State.setST_stack (b : Byte) : (s.setST b).stack = s.stack := rfl
@[simp] theorem State.setST_sp (b : Byte) : (s.setST b).sp = s.sp := rfl
@[simp] theorem State.setST_disp (b : Byte) : (s.setST b).disp = s.disp := rfl
@[simp] theorem State.setST_key (b : Byte) : (s.setST b).key = s.key := rfl
@[simp] theorem State.setST_DT (b : Byte) : (s.setST b).DT = s.DT := rfl
@[simp] theorem State.setST_ST (b : Byte) : (s.setST b).ST = b := rfl
@[simp] theorem State.setST_fault (b : Byte) : (s.setST b).fault = s.fault := rfl
@[simp] theorem State.setST_out (b : Byte) : (s.setST b).out = s.out := rfl
@[simp] theorem State.setST_randIn (b : Byte) : (s.setST b).randIn = s.randIn := rfl
@[simp] theorem State.setST_draws (b : Byte) : (s.setST b).draws = s.draws := rfl
@[simp] theorem State.setST_v (b : Byte) (j : Nibble) : (s.setST b).v j = s.v j := rfl
@[simp] theorem State.setST_readByte (b : Byte) (q : Addr) : (s.setST b).readByte q = s.readByte q := rfl
@[simp] theorem State.setST_keyDown (b : Byte) (j : Nibble) : (s.setST b).keyDown j = s.keyDown j := rfl
@[simp] theorem State.setST_pixel (b : Byte) (px py : Nat) : (s.setST b).pixel px py = s.pixel px py := rfl
@[simp] theorem State.setST_rand (b : Byte) : (s.setST b).rand = s.rand := rfl

/-! ### `writeByte` -/

@[simp] theorem State.writeByte_cfg (a : Addr) (b : Byte) : (s.writeByte a b).cfg = s.cfg := rfl
@[simp] theorem State.writeByte_mem (a : Addr) (b : Byte) : (s.writeByte a b).mem = Memory.write (resetByte s.cfg) s.mem a.toNat b := rfl
@[simp] theorem State.writeByte_x (a : Addr) (b : Byte) : (s.writeByte a b).x = s.x := rfl
@[simp] theorem State.writeByte_I (a : Addr) (b : Byte) : (s.writeByte a b).I = s.I := rfl
@[simp] theorem State.writeByte_pc (a : Addr) (b : Byte) : (s.writeByte a b).pc = s.pc := rfl
@[simp] theorem State.writeByte_stack (a : Addr) (b : Byte) : (s.writeByte a b).stack = s.stack := rfl
@[simp] theorem State.writeByte_sp (a : Addr) (b : Byte) : (s.writeByte a b).sp = s.sp := rfl
@[simp] theorem State.writeByte_disp (a : Addr) (b : Byte) : (s.writeByte a b).disp = s.disp := rfl
@[simp] theorem State.writeByte_key (a : Addr) (b : Byte) : (s.writeByte a b).key = s.key := rfl
@[simp] theorem State.writeByte_DT (a : Addr) (b : Byte) : (s.writeByte a b).DT = s.DT := rfl
@[simp] theorem State.writeByte_ST (a : Addr) (b : Byte) : (s.writeByte a b).ST = s.ST := rfl
@[simp] theorem State.writeByte_fault (a : Addr) (b : Byte) : (s.writeByte a b).fault = s.fault := rfl
@[simp] theorem State.writeByte_out (a : Addr) (b : Byte) : (s.writeByte a b).out = s.out := rfl
@[simp] theorem State.writeByte_randIn (a : Addr) (b : Byte) : (s.writeByte a b).randIn = s.randIn := rfl
@[simp] theorem State.writeByte_draws (a : Addr) (b : Byte) : (s.writeByte a b).draws = s.draws := rfl
@[simp] theorem State.writeByte_v (a : Addr) (b : Byte) (j : Nibble) : (s.writeByte a b).v j = s.v j := rfl
@[simp] theorem State.writeByte_keyDown (a : Addr) (b : Byte) (j : Nibble) : (s.writeByte a b).keyDown j = s.keyDown j := rfl
@[simp] theorem State.writeByte_pixel (a : Addr) (b : Byte) (px py : Nat) : (s.writeByte a b).pixel px py = s.pixel px py := rfl
@[simp] theorem State.writeByte_rand (a : Addr) (b : Byte) : (s.writeByte a b).rand = s.rand := rfl

/-! ### `setPc` -/

@[simp] theorem State.setPc_cfg (p : Word) : (s.setPc p).cfg = s.cfg := rfl
@[simp] theorem State.setPc_mem (p : Word) : (s.setPc p).mem = s.mem := rfl
@[simp] theorem State.setPc_x (p : Word) : (s.setPc p).x = s.x := rfl
@[simp] theorem State.setPc_I (p : Word) : (s.setPc p).I = s.I := rfl
@[simp] theorem State.setPc_pc (p : Word) : (s.setPc p).pc = p := rfl
@[simp] theorem State.setPc_stack (p : Word) : (s.setPc p).stack = s.stack := rfl
@[simp] theorem State.setPc_sp (p : Word) : (s.setPc p).sp = s.sp := rfl
@[simp] theorem State.setPc_disp (p : Word) : (s.setPc p).disp = s.disp := rfl
@[simp] theorem State.setPc_key (p : Word) : (s.setPc p).key = s.key := rfl
@[simp] theorem State.setPc_DT (p : Word) : (s.setPc p).DT = s.DT := rfl
@[simp] theorem State.setPc_ST (p : Word) : (s.setPc p).ST = s.ST := rfl
@[simp] theorem State.setPc_fault (p : Word) : (s.setPc p).fault = s.fault := rfl
@[simp] theorem State.setPc_out (p : Word) : (s.setPc p).out = s.out := rfl
@[simp] theorem State.setPc_randIn (p : Word) : (s.setPc p).randIn = s.randIn := rfl
@[simp] theorem State.setPc_draws (p : Word) : (s.setPc p).draws = s.draws := rfl
@[simp] theorem State.setPc_v (p : Word) (j : Nibble) : (s.setPc p).v j = s.v j := rfl
@[simp] theorem State.setPc_readByte (p : Word) (q : Addr) : (s.setPc p).readByte q = s.readByte q := rfl
@[simp] theorem State.setPc_keyDown (p : Word) (j : Nibble) : (s.setPc p).keyDown j = s.keyDown j := rfl
@[simp] theorem State.setPc_pixel (p : Word) (px py : Nat) : (s.setPc p).pixel px py = s.pixel px py := rfl
@[simp] theorem State.setPc_rand (p : Word) : (s.setPc p).rand = s.rand := rfl

/-! ### `nextInstr` -/

@[simp] theorem State.nextInstr_cfg : (s.nextInstr).cfg = s.cfg := rfl
@[simp] theorem State.nextInstr_mem : (s.nextInstr).mem = s.mem := rfl
@[simp] theorem State.nextInstr_x : (s.nextInstr).x = s.x := rfl
@[simp] theorem State.nextInstr_I : (s.nextInstr).I = s.I := rfl
@[simp] theorem State.nextInstr_pc : (s.nextInstr).pc = s.pc + 2 := rfl
@[simp] theorem State.nextInstr_stack : (s.nextInstr).stack = s.stack := rfl
@[simp] theorem State.nextInstr_sp : (s.nextInstr).sp = s.sp := rfl
@[simp] theorem State.nextInstr_disp : (s.nextInstr).disp = s.disp := rfl
@[simp] theorem State.nextInstr_key : (s.nextInstr).key = s.key := rfl
@[simp] theorem State.nextInstr_DT : (s.nextInstr).DT = s.DT := rfl
@[simp] theorem State.nextInstr_ST : (s.nextInstr).ST = s.ST := rfl
@[simp] theorem State.nextInstr_fault : (s.nextInstr).fault = s.fault := rfl
@[simp] theorem State.nextInstr_out : (s.nextInstr).out = s.out := rfl
@[simp] theorem State.nextInstr_randIn : (s.nextInstr).randIn = s.randIn := rfl
@[simp] theorem State.nextInstr_draws : (s.nextInstr).draws = s.draws := rfl
@[simp] theorem State.nextInstr_v (j : Nibble) : (s.nextInstr).v j = s.v j := rfl
@[simp] theorem State.nextInstr_readByte (q : Addr) : (s.nextInstr).readByte q = s.readByte q := rfl
@[simp] theorem State.nextInstr_keyDown (j : Nibble) : (s.nextInstr).keyDown j = s.keyDown j := rfl
@[simp] theorem State.nextInstr_pixel (px py : Nat) : (s.nextInstr).pixel px py = s.pixel px py := rfl
@[simp] theorem State.nextInstr_rand : (s.nextInstr).rand = s.rand := rfl

/-! ### `skipIf` -/

@[simp] theorem State.skipIf_cfg (c : Bool) : (s.skipIf c).cfg = s.cfg := rfl
@[simp] theorem State.skipIf_mem (c : Bool) : (s.skipIf c).mem = s.mem := rfl
@[simp] theorem State.skipIf_x (c : Bool) : (s.skipIf c).x = s.x := rfl
@[simp] theorem State.skipIf_I (c : Bool) : (s.skipIf c).I = s.I := rfl
@[simp] theorem State.skipIf_pc (c : Bool) : (s.skipIf c).pc = s.pc + if c then 4 else 2 := rfl
@[simp] theorem State.skipIf_stack (c : Bool) : (s.skipIf c).stack = s.stack := rfl
@[simp] theorem State.skipIf_sp (c : Bool) : (s.skipIf c).sp = s.sp := rfl
@[simp] theorem State.skipIf_disp (c : Bool) : (s.skipIf c).disp = s.disp := rfl
@[simp] theorem State.skipIf_key (c : Bool) : (s.skipIf c).key = s.key := rfl
@[simp] theorem State.skipIf_DT (c : Bool) : (s.skipIf c).DT = s.DT := rfl
@[simp] theorem State.skipIf_ST (c : Bool) : (s.skipIf c).ST = s.ST := rfl
@[simp] theorem State.skipIf_fault (c : Bool) : (s.skipIf c).fault = s.fault := rfl
@[simp] theorem State.skipIf_out (c : Bool) : (s.skipIf c).out = s.out := rfl
@[simp] theorem State.skipIf_randIn (c : Bool) : (s.skipIf c).randIn = s.randIn := rfl
@[simp] theorem State.skipIf_draws (c : Bool) : (s.skipIf c).draws = s.draws := rfl
@[simp] theorem State.skipIf_v (c : Bool) (j : Nibble) : (s.skipIf c).v j = s.v j := rfl
@[simp] theorem State.skipIf_readByte (c : Bool) (q : Addr) : (s.skipIf c).readByte q = s.readByte q := rfl
@[simp] theorem State.skipIf_keyDown (c : Bool) (j : Nibble) : (s.skipIf c).keyDown j = s.keyDown j := rfl
@[simp] theorem State.skipIf_pixel (c : Bool) (px py : Nat) : (s.skipIf c).pixel px py = s.pixel px py := rfl
@[simp] theorem State.skipIf_rand (c : Bool) : (s.skipIf c).rand = s.rand := rfl

/-! ### `push` -/

@[simp] theorem State.push_cfg (a : Word) (h : s.sp.val < 16) : (s.push a h).cfg = s.cfg := rfl
@[simp] theorem State.push_mem (a : Word) (h : s.sp.val < 16) : (s.push a h).mem = s.mem := rfl
@[simp] theorem State.push_x (a : Word) (h : s.sp.val < 16) : (s.push a h).x = s.x := rfl
@[simp] theorem State.push_I (a : Word) (h : s.sp.val < 16) : (s.push a h).I = s.I := rfl
@[simp] theorem State.push_pc (a : Word) (h : s.sp.val < 16) : (s.push a h).pc = s.pc := rfl
@[simp] theorem State.push_stack (a : Word) (h : s.sp.val < 16) : (s.push a h).stack = s.stack.set s.sp.val a h := rfl
@[simp] theorem State.push_sp (a : Word) (h : s.sp.val < 16) : (s.push a h).sp = ⟨s.sp.val + 1, by omega⟩ := rfl
@[simp] theorem State.push_disp (a : Word) (h : s.sp.val < 16) : (s.push a h).disp = s.disp := rfl
@[simp] theorem State.push_key (a : Word) (h : s.sp.val < 16) : (s.push a h).key = s.key := rfl
@[simp] theorem State.push_DT (a : Word) (h : s.sp.val < 16) : (s.push a h).DT = s.DT := rfl
@[simp] theorem State.push_ST (a : Word) (h : s.sp.val < 16) : (s.push a h).ST = s.ST := rfl
@[simp] theorem State.push_fault (a : Word) (h : s.sp.val < 16) : (s.push a h).fault = s.fault := rfl
@[simp] theorem State.push_out (a : Word) (h : s.sp.val < 16) : (s.push a h).out = s.out := rfl
@[simp] theorem State.push_randIn (a : Word) (h : s.sp.val < 16) : (s.push a h).randIn = s.randIn := rfl
@[simp] theorem State.push_draws (a : Word) (h : s.sp.val < 16) : (s.push a h).draws = s.draws := rfl
@[simp] theorem State.push_v (a : Word) (h : s.sp.val < 16) (j : Nibble) : (s.push a h).v j = s.v j := rfl
@[simp] theorem State.push_readByte (a : Word) (h : s.sp.val < 16) (q : Addr) : (s.push a h).readByte q = s.readByte q := rfl
@[simp] theorem State.push_keyDown (a : Word) (h : s.sp.val < 16) (j : Nibble) : (s.push a h).keyDown j = s.keyDown j := rfl
@[simp] theorem State.push_pixel (a : Word) (h : s.sp.val < 16) (px py : Nat) : (s.push a h).pixel px py = s.pixel px py := rfl
@[simp] theorem State.push_rand (a : Word) (h : s.sp.val < 16) : (s.push a h).rand = s.rand := rfl

/-! ### `dropTop` -/

@[simp] theorem State.dropTop_cfg (h : 0 < s.sp.val) : (s.dropTop h).cfg = s.cfg := rfl
@[simp] theorem State.dropTop_mem (h : 0 < s.sp.val) : (s.dropTop h).mem = s.mem := rfl
@[simp] theorem State.dropTop_x (h : 0 < s.sp.val) : (s.dropTop h).x = s.x := rfl
@[simp] theorem State.dropTop_I (h : 0 < s.sp.val) : (s.dropTop h).I = s.I := rfl
@[simp] theorem State.dropTop_pc (h : 0 < s.sp.val) : (s.dropTop h).pc = s.pc := rfl
@[simp] theorem State.dropTop_stack (h : 0 < s.sp.val) : (s.dropTop h).stack = s.stack := rfl
@[simp] theorem State.dropTop_sp (h : 0 < s.sp.val) : (s.dropTop h).sp = ⟨s.sp.val - 1, by omega⟩ := rfl
@[simp] theorem State.dropTop_disp (h : 0 < s.sp.val) : (s.dropTop h).disp = s.disp := rfl
@[simp] theorem State.dropTop_key (h : 0 < s.sp.val) : (s.dropTop h).key = s.key := rfl
@[simp] theorem State.dropTop_DT (h : 0 < s.sp.val) : (s.dropTop h).DT = s.DT := rfl
@[simp] theorem State.dropTop_ST (h : 0 < s.sp.val) : (s.dropTop h).ST = s.ST := rfl
@[simp] theorem State.dropTop_fault (h : 0 < s.sp.val) : (s.dropTop h).fault = s.fault := rfl
@[simp] theorem State.dropTop_out (h : 0 < s.sp.val) : (s.dropTop h).out = s.out := rfl
@[simp] theorem State.dropTop_randIn (h : 0 < s.sp.val) : (s.dropTop h).randIn = s.randIn := rfl
@[simp] theorem State.dropTop_draws (h : 0 < s.sp.val) : (s.dropTop h).draws = s.draws := rfl
@[simp] theorem State.dropTop_v (h : 0 < s.sp.val) (j : Nibble) : (s.dropTop h).v j = s.v j := rfl
@[simp] theorem State.dropTop_readByte (h : 0 < s.sp.val) (q : Addr) : (s.dropTop h).readByte q = s.readByte q := rfl
@[simp] theorem State.dropTop_keyDown (h : 0 < s.sp.val) (j : Nibble) : (s.dropTop h).keyDown j = s.keyDown j := rfl
@[simp] theorem State.dropTop_pixel (h : 0 < s.sp.val) (px py : Nat) : (s.dropTop h).pixel px py = s.pixel px py := rfl
@[simp] theorem State.dropTop_rand (h : 0 < s.sp.val) : (s.dropTop h).rand = s.rand := rfl

/-! ### `setDisp` -/

@[simp] theorem State.setDisp_cfg (d : Display) : (s.setDisp d).cfg = s.cfg := rfl
@[simp] theorem State.setDisp_mem (d : Display) : (s.setDisp d).mem = s.mem := rfl
@[simp] theorem State.setDisp_x (d : Display) : (s.setDisp d).x = s.x := rfl
@[simp] theorem State.setDisp_I (d : Display) : (s.setDisp d).I = s.I := rfl
@[simp] theorem State.setDisp_pc (d : Display) : (s.setDisp d).pc = s.pc := rfl
@[simp] theorem State.setDisp_stack (d : Display) : (s.setDisp d).stack = s.stack := rfl
@[simp] theorem State.setDisp_sp (d : Display) : (s.setDisp d).sp = s.sp := rfl
@[simp] theorem State.setDisp_disp (d : Display) : (s.setDisp d).disp = d := rfl
@[simp] theorem State.setDisp_key (d : Display) : (s.setDisp d).key = s.key := rfl
@[simp] theorem State.setDisp_DT (d : Display) : (s.setDisp d).DT = s.DT := rfl
@[simp] theorem State.setDisp_ST (d : Display) : (s.setDisp d).ST = s.ST := rfl
@[simp] theorem State.setDisp_fault (d : Display) : (s.setDisp d).fault = s.fault := rfl
@[simp] theorem State.setDisp_out (d : Display) : (s.setDisp d).out = { s.out with displayChanged := true } := rfl
@[simp] theorem State.setDisp_randIn (d : Display) : (s.setDisp d).randIn = s.randIn := rfl
@[simp] theorem State.setDisp_draws (d : Display) : (s.setDisp d).draws = s.draws := rfl
@[simp] theorem State.setDisp_v (d : Display) (j : Nibble) : (s.setDisp d).v j = s.v j := rfl
@[simp] theorem State.setDisp_readByte (d : Display) (q : Addr) : (s.setDisp d).readByte q = s.readByte q := rfl
@[simp] theorem State.setDisp_keyDown (d : Display) (j : Nibble) : (s.setDisp d).keyDown j = s.keyDown j := rfl
@[simp] theorem State.setDisp_rand (d : Display) : (s.setDisp d).rand = s.rand := rfl

/-! ### `latchKey` -/

@[simp] theorem State.latchKey_cfg (k : Nibble) (p : Bool) : (s.latchKey k p).cfg = s.cfg := rfl
@[simp] theorem State.latchKey_mem (k : Nibble) (p : Bool) : (s.latchKey k p).mem = s.mem := rfl
@[simp] theorem State.latchKey_x (k : Nibble) (p : Bool) : (s.latchKey k p).x = s.x := rfl
@[simp] theorem State.latchKey_I (k : Nibble) (p : Bool) : (s.latchKey k p).I = s.I := rfl
@[simp] theorem State.latchKey_pc (k : Nibble) (p : Bool) : (s.latchKey k p).pc = s.pc := rfl
@[simp] theorem State.latchKey_stack (k : Nibble) (p : Bool) : (s.latchKey k p).stack = s.stack := rfl
@[simp] theorem State.latchKey_sp (k : Nibble) (p : Bool) : (s.latchKey k p).sp = s.sp := rfl
@[simp] theorem State.latchKey_disp (k : Nibble) (p : Bool) : (s.latchKey k p).disp = s.disp := rfl
@[simp] theorem State.latchKey_key (k : Nibble) (p : Bool) : (s.latchKey k p).key = s.key.set k.toNat p k.isLt := rfl
@[simp] theorem State.latchKey_DT (k : Nibble) (p : Bool) : (s.latchKey k p).DT = s.DT := rfl
@[simp] theorem State.latchKey_ST (k : Nibble) (p : Bool) : (s.latchKey k p).ST = s.ST := rfl
@[simp] theorem State.latchKey_fault (k : Nibble) (p : Bool) : (s.latchKey k p).fault = s.fault := rfl
@[simp] theorem State.latchKey_out (k : Nibble) (p : Bool) : (s.latchKey k p).out = s.out := rfl
@[simp] theorem State.latchKey_randIn (k : Nibble) (p : Bool) : (s.latchKey k p).randIn = s.randIn := rfl
@[simp] theorem State.latchKey_draws (k : Nibble) (p : Bool) : (s.latchKey k p).draws = s.draws := rfl
@[simp] theorem State.latchKey_v (k : Nibble) (p : Bool) (j : Nibble) : (s.latchKey k p).v j = s.v j := rfl
@[simp] theorem State.latchKey_readByte (k : Nibble) (p : Bool) (q : Addr) : (s.latchKey k p).readByte q = s.readByte q := rfl
@[simp] theorem State.latchKey_pixel (k : Nibble) (p : Bool) (px py : Nat) : (s.latchKey k p).pixel px py = s.pixel px py := rfl
@[simp] theorem State.latchKey_rand (k : Nibble) (p : Bool) : (s.latchKey k p).rand = s.rand := rfl

/-! ### `drawn` -/

@[simp] theorem State.drawn_cfg : (s.drawn).cfg = s.cfg := rfl
@[simp] theorem State.drawn_mem : (s.drawn).mem = s.mem := rfl
@[simp] theorem State.drawn_x : (s.drawn).x = s.x := rfl
@[simp] theorem State.drawn_I : (s.drawn).I = s.I := rfl
@[simp] theorem State.drawn_pc : (s.drawn).pc = s.pc := rfl
@[simp] theorem State.drawn_stack : (s.drawn).stack = s.stack := rfl
@[simp] theorem State.drawn_sp : (s.drawn).sp = s.sp := rfl
@[simp] theorem State.drawn_disp : (s.drawn).disp = s.disp := rfl
@[simp] theorem State.drawn_key : (s.drawn).key = s.key := rfl
@[simp] theorem State.drawn_DT : (s.drawn).DT = s.DT := rfl
@[simp] theorem State.drawn_ST : (s.drawn).ST = s.ST := rfl
@[simp] theorem State.drawn_fault : (s.drawn).fault = s.fault := rfl
@[simp] theorem State.drawn_out : (s.drawn).out = s.out := rfl
@[simp] theorem State.drawn_randIn : (s.drawn).randIn = none := rfl
@[simp] theorem State.drawn_draws : (s.drawn).draws = s.draws + 1 := rfl
@[simp] theorem State.drawn_v (j : Nibble) : (s.drawn).v j = s.v j := rfl
@[simp] theorem State.drawn_readByte (q : Addr) : (s.drawn).readByte q = s.readByte q := rfl
@[simp] theorem State.drawn_keyDown (j : Nibble) : (s.drawn).keyDown j = s.keyDown j := rfl
@[simp] theorem State.drawn_pixel (px py : Nat) : (s.drawn).pixel px py = s.pixel px py := rfl

/-! ### `raise` -/

@[simp] theorem State.raise_cfg (c : FaultCause) (w : Word) : (s.raise c w).cfg = s.cfg := rfl
@[simp] theorem State.raise_mem (c : FaultCause) (w : Word) : (s.raise c w).mem = s.mem := rfl
@[simp] theorem State.raise_x (c : FaultCause) (w : Word) : (s.raise c w).x = s.x := rfl
@[simp] theorem State.raise_I (c : FaultCause) (w : Word) : (s.raise c w).I = s.I := rfl
@[simp] theorem State.raise_pc (c : FaultCause) (w : Word) : (s.raise c w).pc = s.pc := rfl
@[simp] theorem State.raise_stack (c : FaultCause) (w : Word) : (s.raise c w).stack = s.stack := rfl
@[simp] theorem State.raise_sp (c : FaultCause) (w : Word) : (s.raise c w).sp = s.sp := rfl
@[simp] theorem State.raise_disp (c : FaultCause) (w : Word) : (s.raise c w).disp = s.disp := rfl
@[simp] theorem State.raise_key (c : FaultCause) (w : Word) : (s.raise c w).key = s.key := rfl
@[simp] theorem State.raise_DT (c : FaultCause) (w : Word) : (s.raise c w).DT = s.DT := rfl
@[simp] theorem State.raise_ST (c : FaultCause) (w : Word) : (s.raise c w).ST = s.ST := rfl
@[simp] theorem State.raise_fault (c : FaultCause) (w : Word) : (s.raise c w).fault = some ⟨c, s.pc, w⟩ := rfl
@[simp] theorem State.raise_out (c : FaultCause) (w : Word) : (s.raise c w).out = s.out := rfl
@[simp] theorem State.raise_randIn (c : FaultCause) (w : Word) : (s.raise c w).randIn = s.randIn := rfl
@[simp] theorem State.raise_draws (c : FaultCause) (w : Word) : (s.raise c w).draws = s.draws := rfl
@[simp] theorem State.raise_v (c : FaultCause) (w : Word) (j : Nibble) : (s.raise c w).v j = s.v j := rfl
@[simp] theorem State.raise_readByte (c : FaultCause) (w : Word) (q : Addr) : (s.raise c w).readByte q = s.readByte q := rfl
@[simp] theorem State.raise_keyDown (c : FaultCause) (w : Word) (j : Nibble) : (s.raise c w).keyDown j = s.keyDown j := rfl
@[simp] theorem State.raise_pixel (c : FaultCause) (w : Word) (px py : Nat) : (s.raise c w).pixel px py = s.pixel px py := rfl
@[simp] theorem State.raise_rand (c : FaultCause) (w : Word) : (s.raise c w).rand = s.rand := rfl

/-! ### `beginStep` -/

@[simp] theorem State.beginStep_cfg : (s.beginStep).cfg = s.cfg := rfl
@[simp] theorem State.beginStep_mem : (s.beginStep).mem = s.mem := rfl
@[simp] theorem State.beginStep_x : (s.beginStep).x = s.x := rfl
@[simp] theorem State.beginStep_I : (s.beginStep).I = s.I := rfl
@[simp] theorem State.beginStep_pc : (s.beginStep).pc = s.pc := rfl
@[simp] theorem State.beginStep_stack : (s.beginStep).stack = s.stack := rfl
@[simp] theorem State.beginStep_sp : (s.beginStep).sp = s.sp := rfl
@[simp] theorem State.beginStep_disp : (s.beginStep).disp = s.disp := rfl
@[simp] theorem State.beginStep_key : (s.beginStep).key = s.key := rfl
@[simp] theorem State.beginStep_DT : (s.beginStep).DT = s.DT := rfl
@[simp] theorem State.beginStep_ST : (s.beginStep).ST = s.ST := rfl
@[simp] theorem State.beginStep_fault : (s.beginStep).fault = s.fault := rfl
@[simp] theorem State.beginStep_out : (s.beginStep).out = EventOutput.zero := rfl
@[simp] theorem State.beginStep_randIn : (s.beginStep).randIn = s.randIn := rfl
@[simp] theorem State.beginStep_draws : (s.beginStep).draws = s.draws := rfl
@[simp] theorem State.beginStep_v (j : Nibble) : (s.beginStep).v j = s.v j := rfl
@[simp] theorem State.beginStep_readByte (q : Addr) : (s.beginStep).readByte q = s.readByte q := rfl
@[simp] theorem State.beginStep_keyDown (j : Nibble) : (s.beginStep).keyDown j = s.keyDown j := rfl
@[simp] theorem State.beginStep_pixel (px py : Nat) : (s.beginStep).pixel px py = s.pixel px py := rfl
@[simp] theorem State.beginStep_rand : (s.beginStep).rand = s.rand := rfl

/-! ### `setFlag` -/

@[simp] theorem State.setFlag_cfg (f : Bool) : (s.setFlag f).cfg = s.cfg := rfl
@[simp] theorem State.setFlag_mem (f : Bool) : (s.setFlag f).mem = s.mem := rfl
@[simp] theorem State.setFlag_x (f : Bool) : (s.setFlag f).x = s.x.set 15 (flagByte f) := rfl
@[simp] theorem State.setFlag_I (f : Bool) : (s.setFlag f).I = s.I := rfl
@[simp] theorem State.setFlag_pc (f : Bool) : (s.setFlag f).pc = s.pc := rfl
@[simp] theorem State.setFlag_stack (f : Bool) : (s.setFlag f).stack = s.stack := rfl
@[simp] theorem State.setFlag_sp (f : Bool) : (s.setFlag f).sp = s.sp := rfl
@[simp] theorem State.setFlag_disp (f : Bool) : (s.setFlag f).disp = s.disp := rfl
@[simp] theorem State.setFlag_key (f : Bool) : (s.setFlag f).key = s.key := rfl
@[simp] theorem State.setFlag_DT (f : Bool) : (s.setFlag f).DT = s.DT := rfl
@[simp] theorem State.setFlag_ST (f : Bool) : (s.setFlag f).ST = s.ST := rfl
@[simp] theorem State.setFlag_fault (f : Bool) : (s.setFlag f).fault = s.fault := rfl
@[simp] theorem State.setFlag_out (f : Bool) : (s.setFlag f).out = s.out := rfl
@[simp] theorem State.setFlag_randIn (f : Bool) : (s.setFlag f).randIn = s.randIn := rfl
@[simp] theorem State.setFlag_draws (f : Bool) : (s.setFlag f).draws = s.draws := rfl
@[simp] theorem State.setFlag_readByte (f : Bool) (q : Addr) : (s.setFlag f).readByte q = s.readByte q := rfl
@[simp] theorem State.setFlag_keyDown (f : Bool) (j : Nibble) : (s.setFlag f).keyDown j = s.keyDown j := rfl
@[simp] theorem State.setFlag_pixel (f : Bool) (px py : Nat) : (s.setFlag f).pixel px py = s.pixel px py := rfl
@[simp] theorem State.setFlag_rand (f : Bool) : (s.setFlag f).rand = s.rand := rfl

/-! ### `withRand` -/

@[simp] theorem State.withRand_cfg (r : Option Byte) : (s.withRand r).cfg = s.cfg := rfl
@[simp] theorem State.withRand_mem (r : Option Byte) : (s.withRand r).mem = s.mem := rfl
@[simp] theorem State.withRand_x (r : Option Byte) : (s.withRand r).x = s.x := rfl
@[simp] theorem State.withRand_I (r : Option Byte) : (s.withRand r).I = s.I := rfl
@[simp] theorem State.withRand_pc (r : Option Byte) : (s.withRand r).pc = s.pc := rfl
@[simp] theorem State.withRand_stack (r : Option Byte) : (s.withRand r).stack = s.stack := rfl
@[simp] theorem State.withRand_sp (r : Option Byte) : (s.withRand r).sp = s.sp := rfl
@[simp] theorem State.withRand_disp (r : Option Byte) : (s.withRand r).disp = s.disp := rfl
@[simp] theorem State.withRand_key (r : Option Byte) : (s.withRand r).key = s.key := rfl
@[simp] theorem State.withRand_DT (r : Option Byte) : (s.withRand r).DT = s.DT := rfl
@[simp] theorem State.withRand_ST (r : Option Byte) : (s.withRand r).ST = s.ST := rfl
@[simp] theorem State.withRand_fault (r : Option Byte) : (s.withRand r).fault = s.fault := rfl
@[simp] theorem State.withRand_out (r : Option Byte) : (s.withRand r).out = s.out := rfl
@[simp] theorem State.withRand_randIn (r : Option Byte) : (s.withRand r).randIn = r := rfl
@[simp] theorem State.withRand_draws (r : Option Byte) : (s.withRand r).draws = s.draws := rfl
@[simp] theorem State.withRand_v (r : Option Byte) (j : Nibble) : (s.withRand r).v j = s.v j := rfl
@[simp] theorem State.withRand_readByte (r : Option Byte) (q : Addr) : (s.withRand r).readByte q = s.readByte q := rfl
@[simp] theorem State.withRand_keyDown (r : Option Byte) (j : Nibble) : (s.withRand r).keyDown j = s.keyDown j := rfl
@[simp] theorem State.withRand_pixel (r : Option Byte) (px py : Nat) : (s.withRand r).pixel px py = s.pixel px py := rfl

end Sys2Proof.Machine
end

