-- ==== Sys2Proof/Laws/Memory.lean ====
section
/-! SUPPORT. Memory: a read after a write, and every operation keeps the canonical form. -/

namespace Sys2Proof.Machine

variable {bg : Nat → Byte}

theorem Memory.read_insert (m : Memory) (a q : Nat) (b : Byte) :
    Memory.read bg (Memory.insert a b m) q = if q = a then b else Memory.read bg m q := by
  induction m with
  | nil => simp only [Memory.insert, Memory.read, eq_comm]
  | cons c rest ih =>
    obtain ⟨k, v⟩ := c
    simp only [Memory.insert]
    split
    · simp only [Memory.read, eq_comm]
    · split
      · subst_vars
        by_cases h : q = k <;> simp [Memory.read, h, eq_comm]
      · by_cases h : k = q
        · subst h
          simp [Memory.read, Ne.symm ‹¬a = k›]
        · simp [Memory.read, h, ih]

/-- What the canonical form says of a list with a first cell. -/
theorem Memory.wf_cons (k : Nat) (v : Byte) (rest : Memory) :
    Memory.wf bg ((k, v) :: rest) = true ↔
      k < 4096 ∧ v ≠ bg k ∧ rest.all (fun c => decide (k < c.1)) = true ∧ Memory.wf bg rest = true := by
  simp [Memory.wf, and_assoc]

theorem Memory.read_erase (m : Memory) (a q : Nat) :
    Memory.read bg (Memory.erase a m) q = if q = a then bg a else Memory.read bg m q := by
  induction m with
  | nil => by_cases h : q = a <;> simp [Memory.erase, Memory.read, h]
  | cons c rest ih =>
    obtain ⟨k, v⟩ := c
    simp only [Memory.erase]
    split
    · subst_vars
      by_cases h : q = k
      · subst h
        simp [ih]
      · simp [ih, h, Memory.read, Ne.symm h]
    · by_cases h : k = q
      · subst h
        simp [Memory.read, ‹¬k = a›]
      · simp [Memory.read, h, ih]

/-- A read after a write: the address written reads as the value written, every other address as before. -/
theorem Memory.read_write (m : Memory) (a q : Nat) (b : Byte) :
    Memory.read bg (Memory.write bg m a b) q = if q = a then b else Memory.read bg m q := by
  unfold Memory.write
  split
  · subst_vars
    rw [Memory.read_erase]
  · rw [Memory.read_insert]

theorem Memory.insert_above (m : Memory) (a n : Nat) (b : Byte) (hn : n < a)
    (h : m.all (fun c => decide (n < c.1)) = true) :
    (Memory.insert a b m).all (fun c => decide (n < c.1)) = true := by
  induction m with
  | nil => simpa [Memory.insert] using hn
  | cons c rest ih =>
    obtain ⟨k, v⟩ := c
    simp only [List.all_cons, Bool.and_eq_true, decide_eq_true_eq] at h
    simp only [Memory.insert]
    split
    · simp [hn, h.1, h.2]
    · split
      · simp [hn, h.2]
      · simp [h.1, ih h.2]

theorem Memory.erase_above (m : Memory) (a n : Nat) (h : m.all (fun c => decide (n < c.1)) = true) :
    (Memory.erase a m).all (fun c => decide (n < c.1)) = true := by
  induction m with
  | nil => rfl
  | cons c rest ih =>
    obtain ⟨k, v⟩ := c
    simp only [List.all_cons, Bool.and_eq_true, decide_eq_true_eq] at h
    simp only [Memory.erase]
    split
    · exact ih h.2
    · simp [h.1, ih h.2]

theorem Memory.all_above_trans (m : Memory) (n k : Nat) (hn : n ≤ k)
    (h : m.all (fun c => decide (k < c.1)) = true) : m.all (fun c => decide (n < c.1)) = true := by
  simp only [List.all_eq_true, decide_eq_true_eq] at h ⊢
  intro c hc
  have := h c hc
  omega

theorem Memory.wf_insert (m : Memory) (a : Nat) (b : Byte) (ha : a < 4096) (hb : b ≠ bg a)
    (hm : Memory.wf bg m = true) : Memory.wf bg (Memory.insert a b m) = true := by
  induction m with
  | nil => simp [Memory.insert, Memory.wf, ha, hb]
  | cons c rest ih =>
    obtain ⟨k, v⟩ := c
    obtain ⟨hk, hv, hlt, hrest⟩ := (Memory.wf_cons k v rest).1 hm
    simp only [Memory.insert]
    split
    · rw [Memory.wf_cons]
      refine ⟨ha, hb, ?_, hm⟩
      simp only [List.all_cons, Bool.and_eq_true, decide_eq_true_eq]
      exact ⟨‹_›, Memory.all_above_trans rest a k (by omega) hlt⟩
    · split
      · subst_vars
        exact (Memory.wf_cons _ _ _).2 ⟨ha, hb, hlt, hrest⟩
      · exact (Memory.wf_cons _ _ _).2 ⟨hk, hv, Memory.insert_above rest a k b (by omega) hlt, ih hrest⟩

theorem Memory.wf_erase (m : Memory) (a : Nat) (hm : Memory.wf bg m = true) :
    Memory.wf bg (Memory.erase a m) = true := by
  induction m with
  | nil => rfl
  | cons c rest ih =>
    obtain ⟨k, v⟩ := c
    obtain ⟨hk, hv, hlt, hrest⟩ := (Memory.wf_cons k v rest).1 hm
    simp only [Memory.erase]
    split
    · exact ih hrest
    · exact (Memory.wf_cons _ _ _).2 ⟨hk, hv, Memory.erase_above rest a k hlt, ih hrest⟩

/-- Every write keeps the canonical form. -/
theorem Memory.wf_write (m : Memory) (a : Nat) (b : Byte) (ha : a < 4096) (hm : Memory.wf bg m = true) :
    Memory.wf bg (Memory.write bg m a b) = true := by
  unfold Memory.write
  split
  · exact Memory.wf_erase m a hm
  · exact Memory.wf_insert m a b ha ‹_› hm

/-- Reset memory lists nothing, which is canonical whatever the configuration. -/
theorem Memory.wf_nil : Memory.wf bg [] = true := rfl

/-! ## On State -/

theorem State.readByte_writeByte (s : State) (a q : Addr) (b : Byte) :
    (s.writeByte a b).readByte q = if q = a then b else s.readByte q := by
  unfold State.readByte
  simp only [State.writeByte_cfg, State.writeByte_mem, Memory.read_write, BitVec.toNat_inj]

theorem State.memWf_writeByte (s : State) (hs : s.memWf) (a : Addr) (b : Byte) : (s.writeByte a b).memWf :=
  Memory.wf_write s.mem a.toNat b a.isLt hs

theorem State.memWf_of_eq {s t : State} (hs : s.memWf) (hc : t.cfg = s.cfg) (hm : t.mem = s.mem) : t.memWf := by
  unfold State.memWf
  rw [hc, hm]
  exact hs

end Sys2Proof.Machine
end

