-- ==== Sys2Proof/Laws/Registers.lean ====
section
/-! SUPPORT. Registers, flags and keys: a read after a write. -/

namespace Sys2Proof.Machine

theorem State.v_setV (s : State) (i j : Nibble) (b : Byte) :
    (s.setV i b).v j = if j = i then b else s.v j := by
  simp only [State.v, State.setV, Vector.getElem_set, BitVec.toNat_inj, eq_comm]

@[simp] theorem State.v_setV_same (s : State) (i : Nibble) (b : Byte) : (s.setV i b).v i = b := by
  simp [State.v_setV]

theorem State.v_setV_other (s : State) {i j : Nibble} (b : Byte) (h : j ≠ i) : (s.setV i b).v j = s.v j := by
  simp [State.v_setV, h]

theorem State.v_setFlag (s : State) (f : Bool) (j : Nibble) :
    (s.setFlag f).v j = if j = 0xF then flagByte f else s.v j :=
  State.v_setV s 0xF j (flagByte f)

@[simp] theorem flagByte_toNat (f : Bool) : (flagByte f).toNat = if f then 1 else 0 := by
  cases f <;> rfl

theorem State.keyDown_latchKey (s : State) (k j : Nibble) (p : Bool) :
    (s.latchKey k p).keyDown j = if j = k then p else s.keyDown j := by
  simp only [State.keyDown, State.latchKey, Vector.getElem_set, BitVec.toNat_inj, eq_comm]

/-- The low 4 bits of a register number a key (R160). -/
theorem keyIndex_toNat (b : Byte) : (keyIndex b).toNat = b.toNat % 16 := by
  simp [keyIndex, BitVec.extractLsb'_toNat]

/-- The data address is the sum on naturals, reduced modulo 4096 (R55). -/
@[simp] theorem ea_toNat (i : Word) (k : Nat) : (ea i k).toNat = (i.toNat + k) % 4096 := by
  simp [ea]

/-- The addresses of one instruction are pairwise distinct (R54). -/
theorem ea_injective (i : Word) {j k : Nat} (hj : j < 4096) (hk : k < 4096) (h : ea i j = ea i k) : j = k := by
  have := congrArg BitVec.toNat h
  simp only [ea_toNat] at this
  omega

end Sys2Proof.Machine
end

