-- ==== Sys2Proof/Laws/Blocks.lean ====
section
/-! SUPPORT. The byte sequences of `FX33`, `FX55`, `FX65` and `Load`: what they write and what they leave. -/

namespace Sys2Proof.Machine

theorem nibble_toNat_lt {n : Nat} (h : n < 16) : (BitVec.ofNat 4 n).toNat = n := by
  simp [Nat.mod_eq_of_lt h]

theorem nibble_eq_iff {n : Nat} (h : n < 16) (k : Nibble) : k = BitVec.ofNat 4 n ↔ k.toNat = n := by
  rw [← BitVec.toNat_inj, nibble_toNat_lt h]

/-- Everything `storeBlock` can do is to change memory. -/
theorem storeBlock_eq (base : Word) (n : Nat) (s : State) :
    storeBlock base n s = { s with mem := (storeBlock base n s).mem } := by
  induction n with
  | zero => rfl
  | succ n ih => simp only [storeBlock]; rw [ih]; rfl

@[simp] theorem storeBlock_v (base : Word) (n : Nat) (s : State) (j : Nibble) : (storeBlock base n s).v j = s.v j := by
  rw [storeBlock_eq]; rfl

@[simp] theorem storeBlock_cfg (base : Word) (n : Nat) (s : State) : (storeBlock base n s).cfg = s.cfg := by
  rw [storeBlock_eq]

/-- `storeBlock` leaves every address it does not store to. -/
theorem storeBlock_readByte_other (base : Word) (n : Nat) (s : State) (a : Addr) (h : ∀ k, k < n → a ≠ ea base k) :
    (storeBlock base n s).readByte a = s.readByte a := by
  induction n with
  | zero => rfl
  | succ n ih =>
    simp only [storeBlock]
    rw [State.readByte_writeByte, if_neg (h n (by omega)), ih fun k hk => h k (by omega)]

/-- `storeBlock` stores register `k` at `EA(k)`. -/
theorem storeBlock_readByte (base : Word) (n : Nat) (s : State) (hn : n ≤ 16) (k : Nibble) (hk : k.toNat < n) :
    (storeBlock base n s).readByte (ea base k.toNat) = s.v k := by
  induction n with
  | zero => omega
  | succ n ih =>
    simp only [storeBlock]
    rw [State.readByte_writeByte]
    by_cases h : k.toNat = n
    · rw [if_pos (by rw [h]), storeBlock_v, ← (nibble_eq_iff (by omega) k).2 h]
    · rw [if_neg, ih (by omega) (by omega)]
      intro he
      exact h (ea_injective base (by omega) (by omega) he)

/-- Every store of `storeBlock` keeps the canonical form. -/
theorem storeBlock_memWf (base : Word) (n : Nat) (s : State) (hs : s.memWf) : (storeBlock base n s).memWf := by
  induction n with
  | zero => exact hs
  | succ n ih => exact State.memWf_writeByte _ ih _ _

/-- Everything `loadBlock` can do is to change registers. -/
theorem loadBlock_eq (base : Word) (n : Nat) (s : State) :
    loadBlock base n s = { s with x := (loadBlock base n s).x } := by
  induction n with
  | zero => rfl
  | succ n ih => simp only [loadBlock]; rw [ih]; rfl

@[simp] theorem loadBlock_readByte (base : Word) (n : Nat) (s : State) (a : Addr) :
    (loadBlock base n s).readByte a = s.readByte a := by
  rw [loadBlock_eq]; rfl

/-- `loadBlock` loads register `k` from `EA(k)` and leaves the registers above. -/
theorem loadBlock_v (base : Word) (n : Nat) (s : State) (hn : n ≤ 16) (k : Nibble) :
    (loadBlock base n s).v k = if k.toNat < n then s.readByte (ea base k.toNat) else s.v k := by
  induction n with
  | zero => rfl
  | succ n ih =>
    simp only [loadBlock]
    rw [State.v_setV, loadBlock_readByte, ih (by omega)]
    simp only [nibble_eq_iff (show n < 16 by omega) k]
    by_cases h : k.toNat = n
    · simp [h]
    · by_cases h' : k.toNat < n
      · simp [h, h', Nat.lt_succ_of_lt h']
      · simp [h, h', show ¬ k.toNat < n + 1 by omega]

/-- Everything the writes of `Load` can do is to change memory. -/
theorem loadFrom_eq (a : Nat) (bytes : List Byte) (s : State) :
    loadFrom a bytes s = { s with mem := (loadFrom a bytes s).mem } := by
  induction bytes generalizing a s with
  | nil => rfl
  | cons b rest ih => simp only [loadFrom]; rw [ih]; rfl

/-- What memory reads as after the writes of `Load`, where they stay below 4096. -/
theorem loadFrom_readByte (a : Nat) (bytes : List Byte) (s : State) (h : a + bytes.length ≤ 4096) (q : Addr) :
    (loadFrom a bytes s).readByte q =
      if hq : a ≤ q.toNat ∧ q.toNat < a + bytes.length then bytes[q.toNat - a]'(by omega) else s.readByte q := by
  induction bytes generalizing a s with
  | nil => simp only [loadFrom, List.length_nil]; rw [dif_neg (by omega)]
  | cons b rest ih =>
    simp only [List.length_cons] at h ⊢
    simp only [loadFrom]
    rw [ih (a + 1) _ (by omega), State.readByte_writeByte]
    have hq : q = BitVec.ofNat 12 a ↔ q.toNat = a := by
      rw [← BitVec.toNat_inj, BitVec.toNat_ofNat, Nat.mod_eq_of_lt (by omega)]
    by_cases h₁ : q.toNat = a
    · rw [dif_neg (by omega), if_pos (hq.2 h₁), dif_pos (by omega)]
      simp [h₁]
    · rw [if_neg (fun e => h₁ (hq.1 e))]
      by_cases h₂ : a + 1 ≤ q.toNat ∧ q.toNat < a + 1 + rest.length
      · rw [dif_pos h₂, dif_pos (by omega)]
        have : q.toNat - a = (q.toNat - (a + 1)) + 1 := by omega
        simp [this]
      · rw [dif_neg h₂, dif_neg (by omega)]

/-- `Load` keeps the canonical form. -/
theorem loadFrom_memWf (a : Nat) (bytes : List Byte) (s : State) (hs : s.memWf) : (loadFrom a bytes s).memWf := by
  induction bytes generalizing a s with
  | nil => exact hs
  | cons b rest ih => exact ih _ _ (State.memWf_writeByte _ hs _ _)

end Sys2Proof.Machine
end

