-- ==== Sys2Proof/Laws/Display.lean ====
section
/-! SUPPORT. The display: one toggle changes one cell, and what the rows of a sprite toggle. -/

namespace Sys2Proof.Machine

/-- Cells of a display are the same where their wrapped coordinates are. -/
theorem Display.pixel_congr (d : Display) {a a' b b' : Nat} (ha : a % 64 = a' % 64) (hb : b % 32 = b' % 32) :
    d.pixel a b = d.pixel a' b' := by
  simp only [Display.pixel, ha, hb]

/-- Two displays with the same cells are the same. -/
theorem Display.ext_pixel {d e : Display} (h : ∀ px py, px < 64 → py < 32 → d.pixel px py = e.pixel px py) : d = e := by
  apply Vector.ext
  intro y hy
  apply Vector.ext
  intro x hx
  have := h x y hx hy
  simpa only [Display.pixel, Nat.mod_eq_of_lt hx, Nat.mod_eq_of_lt hy] using this

/-- A toggle turns its own cell over and leaves every other cell alone. -/
theorem Display.pixel_toggle (d : Display) (a b px py : Nat) :
    (d.toggle a b).pixel px py = if a % 64 = px % 64 ∧ b % 32 = py % 32 then !d.pixel px py else d.pixel px py := by
  by_cases hb : b % 32 = py % 32
  · by_cases ha : a % 64 = px % 64
    · simp [Display.toggle, Display.pixel, ha, hb]
    · simp [Display.toggle, Display.pixel, ha, hb]
  · simp [Display.toggle, Display.pixel, hb]

@[simp] theorem Display.pixel_blank (px py : Nat) : Display.blank.pixel px py = false := by
  simp [Display.blank, Display.pixel]

/-- A sprite row that begins at column `vx` covers the cell with its first `n` columns. -/
def rowCovers (vx y : Nat) (b : Byte) (n px py : Nat) : Prop :=
  y % 32 = py % 32 ∧ ∃ col, col < n ∧ b.getLsbD (7 - col) = true ∧ (vx + col) % 64 = px % 64

/-- The first `n` columns of a row toggle exactly the cells they cover, and note a collision exactly where a covered cell
was on: fewer than 64 columns never meet. -/
theorem drawColumns_spec (vx vy row : Nat) (b : Byte) (d : Draw) (n : Nat) (hn : n ≤ 8) :
    (∀ px py, (((List.range n).foldl (drawColumn vx vy row b) d).disp.pixel px py = !d.disp.pixel px py ∧
        rowCovers vx (vy + row) b n px py) ∨
      (((List.range n).foldl (drawColumn vx vy row b) d).disp.pixel px py = d.disp.pixel px py ∧
        ¬ rowCovers vx (vy + row) b n px py)) ∧
    (((List.range n).foldl (drawColumn vx vy row b) d).collision = true ↔
      d.collision = true ∨ ∃ px py, px < 64 ∧ py < 32 ∧ rowCovers vx (vy + row) b n px py ∧
        d.disp.pixel px py = true) := by
  induction n with
  | zero => simp [rowCovers]
  | succ n ih =>
    obtain ⟨hd, hc⟩ := ih (by omega)
    rw [List.range_succ, List.foldl_append]
    generalize hD : (List.range n).foldl (drawColumn vx vy row b) d = D at *
    simp only [List.foldl_cons, List.foldl_nil, drawColumn]
    have hmono : ∀ px py, rowCovers vx (vy + row) b n px py → rowCovers vx (vy + row) b (n + 1) px py := by
      rintro px py ⟨hy, col, hcol, hbit, hx⟩
      exact ⟨hy, col, by omega, hbit, hx⟩
    by_cases hbit : b.getLsbD (7 - n) = true
    · have hfresh : ∀ px py, (vx + n) % 64 = px % 64 → (vy + row) % 32 = py % 32 →
          ¬ rowCovers vx (vy + row) b n px py := by
        rintro px py hx - ⟨-, col, hcol, -, hx'⟩
        omega
      have hiff : ∀ px py, rowCovers vx (vy + row) b (n + 1) px py ↔
          rowCovers vx (vy + row) b n px py ∨ ((vx + n) % 64 = px % 64 ∧ (vy + row) % 32 = py % 32) := by
        intro px py
        constructor
        · rintro ⟨hy, col, hcol, hb, hx⟩
          by_cases h : col = n
          · subst h; exact .inr ⟨hx, hy⟩
          · exact .inl ⟨hy, col, by omega, hb, hx⟩
        · rintro (h | ⟨hx, hy⟩)
          · exact hmono px py h
          · exact ⟨hy, n, by omega, hbit, hx⟩
      rw [if_pos hbit]
      refine ⟨?_, ?_⟩
      · intro px py
        rw [Display.pixel_toggle, hiff]
        by_cases hcell : (vx + n) % 64 = px % 64 ∧ (vy + row) % 32 = py % 32
        · rw [if_pos hcell]
          rcases hd px py with ⟨-, h⟩ | ⟨h, h'⟩
          · exact absurd h (hfresh px py hcell.1 hcell.2)
          · exact .inl ⟨by rw [h], .inr hcell⟩
        · rw [if_neg hcell]
          rcases hd px py with ⟨h, h'⟩ | ⟨h, h'⟩
          · exact .inl ⟨h, .inl h'⟩
          · exact .inr ⟨h, by simp [h', hcell]⟩
      · simp only [Bool.or_eq_true, hc]
        have hpix : D.disp.pixel (vx + n) (vy + row) = d.disp.pixel (vx + n) (vy + row) := by
          rcases hd (vx + n) (vy + row) with ⟨-, h⟩ | ⟨h, -⟩
          · exact absurd h (hfresh _ _ rfl rfl)
          · exact h
        rw [hpix]
        constructor
        · rintro ((h | ⟨px, py, hx, hy, h, hp⟩) | h)
          · exact .inl h
          · exact .inr ⟨px, py, hx, hy, hmono px py h, hp⟩
          · refine .inr ⟨(vx + n) % 64, (vy + row) % 32, by omega, by omega, (hiff _ _).2 (.inr ⟨?_, ?_⟩), ?_⟩
            · omega
            · omega
            · rw [← h]; exact Display.pixel_congr _ (by omega) (by omega)
        · rintro (h | ⟨px, py, hx, hy, h, hp⟩)
          · exact .inl (.inl h)
          · rcases (hiff px py).1 h with h | ⟨h₁, h₂⟩
            · exact .inl (.inr ⟨px, py, hx, hy, h, hp⟩)
            · exact .inr (by rw [← hp]; exact Display.pixel_congr _ h₁ h₂)
    · have hiff : ∀ px py, rowCovers vx (vy + row) b (n + 1) px py ↔ rowCovers vx (vy + row) b n px py := by
        intro px py
        constructor
        · rintro ⟨hy, col, hcol, hb, hx⟩
          have : col ≠ n := by rintro rfl; exact hbit hb
          exact ⟨hy, col, by omega, hb, hx⟩
        · exact hmono px py
      rw [if_neg hbit]
      simp only [hiff]
      exact ⟨hd, hc⟩

/-- The first `n` rows of the sprite at `EA(0)` on cover the cell. -/
def rowsCover (s : State) (vx vy n px py : Nat) : Prop :=
  ∃ row, row < n ∧ rowCovers vx (vy + row) (s.readByte (ea s.I row)) 8 px py

theorem rowsCover_succ (s : State) (vx vy n px py : Nat) :
    rowsCover s vx vy (n + 1) px py ↔
      rowsCover s vx vy n px py ∨ rowCovers vx (vy + n) (s.readByte (ea s.I n)) 8 px py := by
  constructor
  · rintro ⟨row, hrow, h⟩
    by_cases e : row = n
    · subst e; exact .inr h
    · exact .inl ⟨row, by omega, h⟩
  · rintro (⟨row, hrow, h⟩ | h)
    · exact ⟨row, by omega, h⟩
    · exact ⟨n, by omega, h⟩

/-- `SpriteCovers` in these words. -/
theorem spriteCovers_iff (s : State) (vx vy n : Nat) {px py : Nat} (hx : px < 64) (hy : py < 32) :
    SpriteCovers s vx vy n px py ↔ rowsCover s vx vy n px py := by
  have hea : ∀ k, BitVec.ofNat 12 ((s.I.toNat + k) % 4096) = ea s.I k := fun k =>
    BitVec.eq_of_toNat_eq (by simp)
  simp only [SpriteCovers, rowsCover, rowCovers, hea, Nat.mod_eq_of_lt hx, Nat.mod_eq_of_lt hy]
  constructor
  · rintro ⟨row, col, h₁, h₂, h₃, h₄, h₅⟩; exact ⟨row, h₁, h₅, col, h₂, h₃, h₄⟩
  · rintro ⟨row, h₁, h₅, col, h₂, h₃, h₄⟩; exact ⟨row, col, h₁, h₂, h₃, h₄, h₅⟩

/-- The first `n` rows of a sprite toggle exactly the cells they cover, and note a collision exactly where a covered cell
was on: fewer than 32 rows never meet. -/
theorem drawSprite_spec (s : State) (vx vy n : Nat) (hn : n ≤ 32) :
    (∀ px py, ((drawSprite s vx vy n).disp.pixel px py = !s.disp.pixel px py ∧ rowsCover s vx vy n px py) ∨
      ((drawSprite s vx vy n).disp.pixel px py = s.disp.pixel px py ∧ ¬ rowsCover s vx vy n px py)) ∧
    ((drawSprite s vx vy n).collision = true ↔
      ∃ px py, px < 64 ∧ py < 32 ∧ rowsCover s vx vy n px py ∧ s.disp.pixel px py = true) := by
  induction n with
  | zero => simp [drawSprite, rowsCover]
  | succ n ih =>
    obtain ⟨hd, hc⟩ := ih (by omega)
    obtain ⟨hd', hc'⟩ := drawColumns_spec vx vy n (s.readByte (ea s.I n)) (drawSprite s vx vy n) 8 (by omega)
    have hfresh : ∀ px py, rowsCover s vx vy n px py → ¬ rowCovers vx (vy + n) (s.readByte (ea s.I n)) 8 px py := by
      rintro px py ⟨row, hrow, h, -⟩ ⟨h', -⟩
      omega
    simp only [drawSprite, drawRow, rowsCover_succ]
    refine ⟨fun px py => ?_, ?_⟩
    · rcases hd px py with ⟨a, b⟩ | ⟨a, b⟩ <;> rcases hd' px py with ⟨c, d⟩ | ⟨c, d⟩
      · exact absurd d (hfresh _ _ b)
      · exact .inl ⟨by rw [c, a], .inl b⟩
      · exact .inl ⟨by rw [c, a], .inr d⟩
      · exact .inr ⟨by rw [c, a], by simp [b, d]⟩
    · rw [hc', hc]
      have hpix : ∀ px py, rowCovers vx (vy + n) (s.readByte (ea s.I n)) 8 px py →
          (drawSprite s vx vy n).disp.pixel px py = s.disp.pixel px py := by
        intro px py h
        rcases hd px py with ⟨-, b⟩ | ⟨a, -⟩
        · exact absurd h (hfresh _ _ b)
        · exact a
      constructor
      · rintro (⟨px, py, hx, hy, h, hp⟩ | ⟨px, py, hx, hy, h, hp⟩)
        · exact ⟨px, py, hx, hy, .inl h, hp⟩
        · exact ⟨px, py, hx, hy, .inr h, by rw [← hpix px py h]; exact hp⟩
      · rintro ⟨px, py, hx, hy, h | h, hp⟩
        · exact .inl ⟨px, py, hx, hy, h, hp⟩
        · exact .inr ⟨px, py, hx, hy, h, by rw [hpix px py h]; exact hp⟩

end Sys2Proof.Machine
end

