-- ==== Sys2Proof/Laws/Encoding.lean ====
section
/-! SUPPORT. Words and fields as numbers: a word built from its fields is their digits, and a field is a digit of the word
(30_encoding.md R71). With these, facts about encodings are linear arithmetic. -/

namespace Sys2Proof

/-- Concatenation puts the first part above the second (R8). -/
theorem toNat_append_eq {m n : Nat} (a : BitVec m) (b : BitVec n) :
    (a ++ b).toNat = a.toNat * 2 ^ n + b.toNat := by
  rw [BitVec.toNat_append, ← Nat.shiftLeft_add_eq_or_of_lt b.isLt, Nat.shiftLeft_eq]

/-! ## The formats of R71 -/

theorem toNat_nnn (f : Nibble) (nnn : Addr) : (f ++ nnn : Word).toNat = f.toNat * 4096 + nnn.toNat :=
  toNat_append_eq f nnn

theorem toNat_xnn (f x : Nibble) (nn : Byte) :
    (f ++ x ++ nn : Word).toNat = f.toNat * 4096 + x.toNat * 256 + nn.toNat := by
  have h₁ := toNat_append_eq (f ++ x) nn
  have h₂ := toNat_append_eq f x
  rw [h₂] at h₁
  refine h₁.trans ?_
  omega

theorem toNat_xyn (f x y n : Nibble) :
    (f ++ x ++ y ++ n : Word).toNat = f.toNat * 4096 + x.toNat * 256 + y.toNat * 16 + n.toNat := by
  have h₁ := toNat_append_eq (f ++ x ++ y) n
  have h₂ := toNat_append_eq (f ++ x) y
  have h₃ := toNat_append_eq f x
  rw [h₂, h₃] at h₁
  refine h₁.trans ?_
  omega

theorem bigEndian_toNat (hi lo : Byte) : (bigEndian hi lo).toNat = hi.toNat * 256 + lo.toNat :=
  toNat_append_eq hi lo

/-! ## The fields of R71 -/

theorem fieldFam_toNat (w : Word) : (fieldFam w).toNat = w.toNat / 4096 := by
  simp only [fieldFam, BitVec.extractLsb'_toNat, Nat.shiftRight_eq_div_pow]
  have := w.isLt
  omega

theorem fieldX_toNat (w : Word) : (fieldX w).toNat = w.toNat / 256 % 16 := by
  simp [fieldX, BitVec.extractLsb'_toNat, Nat.shiftRight_eq_div_pow]

theorem fieldY_toNat (w : Word) : (fieldY w).toNat = w.toNat / 16 % 16 := by
  simp [fieldY, BitVec.extractLsb'_toNat, Nat.shiftRight_eq_div_pow]

theorem fieldN_toNat (w : Word) : (fieldN w).toNat = w.toNat % 16 := by
  simp [fieldN, BitVec.extractLsb'_toNat]

theorem fieldNN_toNat (w : Word) : (fieldNN w).toNat = w.toNat % 256 := by
  simp [fieldNN, BitVec.extractLsb'_toNat]

theorem fieldNNN_toNat (w : Word) : (fieldNNN w).toNat = w.toNat % 4096 := by
  simp [fieldNNN, BitVec.extractLsb'_toNat]

theorem highByte_toNat (w : Word) : (highByte w).toNat = w.toNat / 256 := by
  simp only [highByte, BitVec.extractLsb'_toNat, Nat.shiftRight_eq_div_pow]
  have := w.isLt
  omega

theorem lowByte_toNat (w : Word) : (lowByte w).toNat = w.toNat % 256 := by
  simp [lowByte, BitVec.extractLsb'_toNat]

/-- Memory order and back (R52). -/
@[simp] theorem bigEndian_bytes (w : Word) : bigEndian (highByte w) (lowByte w) = w := by
  apply BitVec.eq_of_toNat_eq
  rw [bigEndian_toNat, highByte_toNat, lowByte_toNat]
  omega

/-- The decoder on a word laid out in memory order. -/
theorem decode_wordBytes (w : Word) :
    decode (wordBytes w) = match decodeWord w with
      | some i => .instr i []
      | none => .undefinedWord w [] := by
  cases h : decodeWord w <;> simp only [wordBytes, decode, bigEndian_bytes, h]

/-! ## Fields of a word in a format: what each is when the word is built from it -/

@[simp] theorem fieldFam_of_nnn (f : Nibble) (nnn : Addr) : fieldFam (f ++ nnn) = f := by
  apply BitVec.eq_of_toNat_eq
  rw [fieldFam_toNat, toNat_nnn]
  omega

@[simp] theorem fieldNNN_of_nnn (f : Nibble) (nnn : Addr) : fieldNNN (f ++ nnn) = nnn := by
  apply BitVec.eq_of_toNat_eq
  rw [fieldNNN_toNat, toNat_nnn]
  omega

@[simp] theorem fieldFam_of_xnn (f x : Nibble) (nn : Byte) : fieldFam (f ++ x ++ nn) = f := by
  apply BitVec.eq_of_toNat_eq
  rw [fieldFam_toNat, toNat_xnn]
  omega

@[simp] theorem fieldX_of_xnn (f x : Nibble) (nn : Byte) : fieldX (f ++ x ++ nn) = x := by
  apply BitVec.eq_of_toNat_eq
  rw [fieldX_toNat, toNat_xnn]
  omega

@[simp] theorem fieldNN_of_xnn (f x : Nibble) (nn : Byte) : fieldNN (f ++ x ++ nn) = nn := by
  apply BitVec.eq_of_toNat_eq
  rw [fieldNN_toNat, toNat_xnn]
  omega

@[simp] theorem fieldFam_of_xyn (f x y n : Nibble) : fieldFam (f ++ x ++ y ++ n) = f := by
  apply BitVec.eq_of_toNat_eq
  rw [fieldFam_toNat, toNat_xyn]
  omega

@[simp] theorem fieldX_of_xyn (f x y n : Nibble) : fieldX (f ++ x ++ y ++ n) = x := by
  apply BitVec.eq_of_toNat_eq
  rw [fieldX_toNat, toNat_xyn]
  omega

@[simp] theorem fieldY_of_xyn (f x y n : Nibble) : fieldY (f ++ x ++ y ++ n) = y := by
  apply BitVec.eq_of_toNat_eq
  rw [fieldY_toNat, toNat_xyn]
  omega

@[simp] theorem fieldN_of_xyn (f x y n : Nibble) : fieldN (f ++ x ++ y ++ n) = n := by
  apply BitVec.eq_of_toNat_eq
  rw [fieldN_toNat, toNat_xyn]
  omega

end Sys2Proof
end

