-- ==== Sys2Proof/Laws/PerInstr.lean ====
section
/-! SUPPORT. Statements about every instruction, one lemma a constructor. -/

namespace Sys2Proof.Laws

/-! ## A word of each encoding shape under a mask -/

theorem nnn_and (f : Nibble) (nnn : Addr) : ((f ++ nnn : Word) &&& 0xF000) = f ++ 0x000#12 := by
  apply BitVec.eq_of_getLsbD_eq
  intro i hi
  rw [BitVec.getLsbD_and]
  simp only [BitVec.getLsbD_append]
  interval_cases i <;> simp

theorem xnn_and_family (f x : Nibble) (nn : Byte) :
    ((f ++ x ++ nn : Word) &&& 0xF000) = f ++ 0x0#4 ++ 0x00#8 := by
  apply BitVec.eq_of_getLsbD_eq
  intro i hi
  rw [BitVec.getLsbD_and]
  simp only [BitVec.getLsbD_append]
  interval_cases i <;> simp

theorem xnn_and_low (f x : Nibble) (nn : Byte) :
    ((f ++ x ++ nn : Word) &&& 0xF0FF) = f ++ 0x0#4 ++ nn := by
  apply BitVec.eq_of_getLsbD_eq
  intro i hi
  rw [BitVec.getLsbD_and]
  simp only [BitVec.getLsbD_append]
  interval_cases i <;> simp

theorem xyn_and_family (f x y n : Nibble) :
    ((f ++ x ++ y ++ n : Word) &&& 0xF000) = f ++ 0x0#4 ++ 0x0#4 ++ 0x0#4 := by
  apply BitVec.eq_of_getLsbD_eq
  intro i hi
  rw [BitVec.getLsbD_and]
  simp only [BitVec.getLsbD_append]
  interval_cases i <;> simp

theorem xyn_and_low (f x y n : Nibble) :
    ((f ++ x ++ y ++ n : Word) &&& 0xF00F) = f ++ 0x0#4 ++ 0x0#4 ++ n := by
  apply BitVec.eq_of_getLsbD_eq
  intro i hi
  rw [BitVec.getLsbD_and]
  simp only [BitVec.getLsbD_append]
  interval_cases i <;> simp

/-! ## Every encoding lies in its own row of the opcode map (R73, R74) -/

/-- The word of `i` is admitted by the row of the opcode map that has its mnemonic. -/
def Encoded.Statement (i : Instr) : Prop :=
  ∃ r, r ∈ opcodeMap ∧ r.mnemonic = i.mnemonic ∧ r.admits (encode i) = true

theorem Encoded.cls : Encoded.Statement .cls :=
  ⟨⟨0xFFFF, 0x00E0, "CLS"⟩, by decide, rfl, rfl⟩

theorem Encoded.ret : Encoded.Statement .ret :=
  ⟨⟨0xFFFF, 0x00EE, "RET"⟩, by decide, rfl, rfl⟩

theorem Encoded.jp (nnn : Addr) : Encoded.Statement (.jp nnn) :=
  ⟨⟨0xF000, 0x1000, "JP_NNN"⟩, by decide, rfl, beq_iff_eq.2 (nnn_and _ _)⟩

theorem Encoded.call (nnn : Addr) : Encoded.Statement (.call nnn) :=
  ⟨⟨0xF000, 0x2000, "CALL_NNN"⟩, by decide, rfl, beq_iff_eq.2 (nnn_and _ _)⟩

theorem Encoded.seImm (x : Nibble) (nn : Byte) : Encoded.Statement (.seImm x nn) :=
  ⟨⟨0xF000, 0x3000, "SE_VX__NN"⟩, by decide, rfl, beq_iff_eq.2 (xnn_and_family _ _ _)⟩

theorem Encoded.sneImm (x : Nibble) (nn : Byte) : Encoded.Statement (.sneImm x nn) :=
  ⟨⟨0xF000, 0x4000, "SNE_VX__NN"⟩, by decide, rfl, beq_iff_eq.2 (xnn_and_family _ _ _)⟩

theorem Encoded.seReg (x y : Nibble) : Encoded.Statement (.seReg x y) :=
  ⟨⟨0xF00F, 0x5000, "SE_VX__VY"⟩, by decide, rfl, beq_iff_eq.2 (xyn_and_low _ _ _ _)⟩

theorem Encoded.ldImm (x : Nibble) (nn : Byte) : Encoded.Statement (.ldImm x nn) :=
  ⟨⟨0xF000, 0x6000, "LD_VX__NN"⟩, by decide, rfl, beq_iff_eq.2 (xnn_and_family _ _ _)⟩

theorem Encoded.addImm (x : Nibble) (nn : Byte) : Encoded.Statement (.addImm x nn) :=
  ⟨⟨0xF000, 0x7000, "ADD_VX__NN"⟩, by decide, rfl, beq_iff_eq.2 (xnn_and_family _ _ _)⟩

theorem Encoded.ldReg (x y : Nibble) : Encoded.Statement (.ldReg x y) :=
  ⟨⟨0xF00F, 0x8000, "LD_VX__VY"⟩, by decide, rfl, beq_iff_eq.2 (xyn_and_low _ _ _ _)⟩

theorem Encoded.orReg (x y : Nibble) : Encoded.Statement (.orReg x y) :=
  ⟨⟨0xF00F, 0x8001, "OR_VX__VY"⟩, by decide, rfl, beq_iff_eq.2 (xyn_and_low _ _ _ _)⟩

theorem Encoded.andReg (x y : Nibble) : Encoded.Statement (.andReg x y) :=
  ⟨⟨0xF00F, 0x8002, "AND_VX__VY"⟩, by decide, rfl, beq_iff_eq.2 (xyn_and_low _ _ _ _)⟩

theorem Encoded.xorReg (x y : Nibble) : Encoded.Statement (.xorReg x y) :=
  ⟨⟨0xF00F, 0x8003, "XOR_VX__VY"⟩, by decide, rfl, beq_iff_eq.2 (xyn_and_low _ _ _ _)⟩

theorem Encoded.addReg (x y : Nibble) : Encoded.Statement (.addReg x y) :=
  ⟨⟨0xF00F, 0x8004, "ADD_VX__VY"⟩, by decide, rfl, beq_iff_eq.2 (xyn_and_low _ _ _ _)⟩

theorem Encoded.subReg (x y : Nibble) : Encoded.Statement (.subReg x y) :=
  ⟨⟨0xF00F, 0x8005, "SUB_VX__VY"⟩, by decide, rfl, beq_iff_eq.2 (xyn_and_low _ _ _ _)⟩

theorem Encoded.shr (x y : Nibble) : Encoded.Statement (.shr x y) :=
  ⟨⟨0xF00F, 0x8006, "SHR_VX__VY"⟩, by decide, rfl, beq_iff_eq.2 (xyn_and_low _ _ _ _)⟩

theorem Encoded.subnReg (x y : Nibble) : Encoded.Statement (.subnReg x y) :=
  ⟨⟨0xF00F, 0x8007, "SUBN_VX__VY"⟩, by decide, rfl, beq_iff_eq.2 (xyn_and_low _ _ _ _)⟩

theorem Encoded.shl (x y : Nibble) : Encoded.Statement (.shl x y) :=
  ⟨⟨0xF00F, 0x800E, "SHL_VX__VY"⟩, by decide, rfl, beq_iff_eq.2 (xyn_and_low _ _ _ _)⟩

theorem Encoded.sneReg (x y : Nibble) : Encoded.Statement (.sneReg x y) :=
  ⟨⟨0xF00F, 0x9000, "SNE_VX__VY"⟩, by decide, rfl, beq_iff_eq.2 (xyn_and_low _ _ _ _)⟩

theorem Encoded.ldI (nnn : Addr) : Encoded.Statement (.ldI nnn) :=
  ⟨⟨0xF000, 0xA000, "LD_I__NNN"⟩, by decide, rfl, beq_iff_eq.2 (nnn_and _ _)⟩

theorem Encoded.jpV0 (nnn : Addr) : Encoded.Statement (.jpV0 nnn) :=
  ⟨⟨0xF000, 0xB000, "JP_V0__NNN"⟩, by decide, rfl, beq_iff_eq.2 (nnn_and _ _)⟩

theorem Encoded.rnd (x : Nibble) (nn : Byte) : Encoded.Statement (.rnd x nn) :=
  ⟨⟨0xF000, 0xC000, "RND_VX__NN"⟩, by decide, rfl, beq_iff_eq.2 (xnn_and_family _ _ _)⟩

theorem Encoded.drw (x y n : Nibble) : Encoded.Statement (.drw x y n) :=
  ⟨⟨0xF000, 0xD000, "DRW_VX__VY__N"⟩, by decide, rfl, beq_iff_eq.2 (xyn_and_family _ _ _ _)⟩

theorem Encoded.skp (x : Nibble) : Encoded.Statement (.skp x) :=
  ⟨⟨0xF0FF, 0xE09E, "SKP_VX"⟩, by decide, rfl, beq_iff_eq.2 (xnn_and_low _ _ _)⟩

theorem Encoded.sknp (x : Nibble) : Encoded.Statement (.sknp x) :=
  ⟨⟨0xF0FF, 0xE0A1, "SKNP_VX"⟩, by decide, rfl, beq_iff_eq.2 (xnn_and_low _ _ _)⟩

theorem Encoded.ldVxDt (x : Nibble) : Encoded.Statement (.ldVxDt x) :=
  ⟨⟨0xF0FF, 0xF007, "LD_VX__DT"⟩, by decide, rfl, beq_iff_eq.2 (xnn_and_low _ _ _)⟩

theorem Encoded.ldVxK (x : Nibble) : Encoded.Statement (.ldVxK x) :=
  ⟨⟨0xF0FF, 0xF00A, "LD_VX__K"⟩, by decide, rfl, beq_iff_eq.2 (xnn_and_low _ _ _)⟩

theorem Encoded.ldDtVx (x : Nibble) : Encoded.Statement (.ldDtVx x) :=
  ⟨⟨0xF0FF, 0xF015, "LD_DT__VX"⟩, by decide, rfl, beq_iff_eq.2 (xnn_and_low _ _ _)⟩

theorem Encoded.ldStVx (x : Nibble) : Encoded.Statement (.ldStVx x) :=
  ⟨⟨0xF0FF, 0xF018, "LD_ST__VX"⟩, by decide, rfl, beq_iff_eq.2 (xnn_and_low _ _ _)⟩

theorem Encoded.addI (x : Nibble) : Encoded.Statement (.addI x) :=
  ⟨⟨0xF0FF, 0xF01E, "ADD_I__VX"⟩, by decide, rfl, beq_iff_eq.2 (xnn_and_low _ _ _)⟩

theorem Encoded.ldF (x : Nibble) : Encoded.Statement (.ldF x) :=
  ⟨⟨0xF0FF, 0xF029, "LD_F__VX"⟩, by decide, rfl, beq_iff_eq.2 (xnn_and_low _ _ _)⟩

theorem Encoded.ldB (x : Nibble) : Encoded.Statement (.ldB x) :=
  ⟨⟨0xF0FF, 0xF033, "LD_B__VX"⟩, by decide, rfl, beq_iff_eq.2 (xnn_and_low _ _ _)⟩

theorem Encoded.storeRegs (x : Nibble) : Encoded.Statement (.storeRegs x) :=
  ⟨⟨0xF0FF, 0xF055, "LD__I___VX"⟩, by decide, rfl, beq_iff_eq.2 (xnn_and_low _ _ _)⟩

theorem Encoded.loadRegs (x : Nibble) : Encoded.Statement (.loadRegs x) :=
  ⟨⟨0xF0FF, 0xF065, "LD_VX___I"⟩, by decide, rfl, beq_iff_eq.2 (xnn_and_low _ _ _)⟩

end Sys2Proof.Laws
end

