-- ==== Sys2Proof/Laws/Step.lean ====
section
/-! SUPPORT. What a Step can do: one inversion lemma for `step`, one for each meaning with more than one outcome, and
the frame of the sprite draw. -/

namespace Sys2Proof.Machine

/-- The bytes a Step fetches, and the word they make. -/
theorem decode_fetch (s : State) (_h : s.pc.toNat ≤ 0x0FFE) :
    decode [s.readByte (BitVec.ofNat 12 s.pc.toNat), s.readByte (BitVec.ofNat 12 (s.pc.toNat + 1))] =
      match decodeWord s.fetchWord with
      | some i => .instr i []
      | none => .undefinedWord s.fetchWord [] := by
  have h₁ : BitVec.ofNat 12 s.pc.toNat = s.pc.setWidth 12 := by
    apply BitVec.eq_of_toNat_eq
    simp
  have h₂ : BitVec.ofNat 12 (s.pc.toNat + 1) = (s.pc + 1).setWidth 12 := by
    apply BitVec.eq_of_toNat_eq
    simp
  rw [h₁, h₂]
  rfl

/-- `Executes` in the step's own words. -/
theorem executes_iff (s : State) (i : Instr) :
    Executes s i ↔ s.fault = none ∧ s.fetchOutOfBounds = false ∧ decodeWord s.fetchWord = some i := by
  unfold Executes State.fetchOutOfBounds
  constructor
  · rintro ⟨hf, hp, hd⟩
    rw [decode_fetch s hp] at hd
    refine ⟨hf, by simp; omega, ?_⟩
    cases h : decodeWord s.fetchWord <;> simp_all
  · rintro ⟨hf, hp, hd⟩
    have hp' : s.pc.toNat ≤ 0x0FFE := by simp at hp; omega
    exact ⟨hf, hp', by rw [decode_fetch s hp', hd]⟩

/-- `FetchesUndefined` in the step's own words. -/
theorem fetchesUndefined_iff (s : State) (w : Word) :
    FetchesUndefined s w ↔
      s.fault = none ∧ s.fetchOutOfBounds = false ∧ decodeWord s.fetchWord = none ∧ w = s.fetchWord := by
  unfold FetchesUndefined State.fetchOutOfBounds
  constructor
  · rintro ⟨hf, hp, hd⟩
    rw [decode_fetch s hp] at hd
    refine ⟨hf, by simp; omega, ?_⟩
    cases h : decodeWord s.fetchWord <;> simp_all
  · rintro ⟨hf, hp, hd, rfl⟩
    have hp' : s.pc.toNat ≤ 0x0FFE := by simp at hp; omega
    exact ⟨hf, hp', by rw [decode_fetch s hp', hd]⟩

/-- A state executes at most one instruction. -/
theorem executes_unique {s : State} {i j : Instr} (hi : Executes s i) (hj : Executes s j) : i = j := by
  rw [executes_iff] at hi hj
  exact Option.some.inj (hi.2.2.symm.trans hj.2.2)

/-- Everything a Step can do: it is halted, it fails to fetch, it meets an undefined word, or it executes. -/
theorem step_cases (s : State) :
    ((∃ r, s.fault = some r) ∧ step s = .next s.beginStep) ∨
    (s.fault = none ∧ s.fetchOutOfBounds = true ∧ step s = .next (s.beginStep.raise .fetch 0x0000)) ∨
    (∃ w, FetchesUndefined s w ∧ step s = .next (s.beginStep.undefinedWord w)) ∨
    (∃ i, Executes s i ∧ step s = exec i s.beginStep) := by
  unfold step
  cases hf : s.fault with
  | some r => exact .inl ⟨⟨r, rfl⟩, rfl⟩
  | none =>
    cases hp : s.fetchOutOfBounds with
    | true => exact .inr (.inl ⟨rfl, rfl, by simp⟩)
    | false =>
      cases hd : decodeWord s.fetchWord with
      | none => exact .inr (.inr (.inl ⟨_, (fetchesUndefined_iff s _).2 ⟨hf, hp, hd, rfl⟩, by simp⟩))
      | some i => exact .inr (.inr (.inr ⟨i, (executes_iff s i).2 ⟨hf, hp, hd⟩, by simp⟩))

/-- Everything `00EE` can do (R100). -/
theorem execRet_cases (s : State) :
    (∃ h : 0 < s.sp.val, execRet s = .next ((s.dropTop h).setPc (s.topOfStack h))) ∨
    (s.sp.val = 0 ∧ execRet s = .next (s.raise .stackUnderflow (encode .ret))) := by
  unfold execRet
  split
  · exact .inl ⟨‹_›, rfl⟩
  · exact .inr ⟨by omega, rfl⟩

/-- Everything `2NNN` can do (R102). -/
theorem execCall_cases (nnn : Addr) (s : State) :
    (∃ h : s.sp.val < 16, execCall nnn s = .next ((s.push (s.pc + 2) h).setPc (zextAddr nnn))) ∨
    (s.sp.val = 16 ∧ execCall nnn s = .next (s.raise .stackOverflow (encode (.call nnn)))) := by
  unfold execCall
  split
  · exact .inl ⟨‹_›, rfl⟩
  · exact .inr ⟨by omega, rfl⟩

/-- The least pressed key (R163): none, or pressed with none below. -/
theorem lowestKey_cases (s : State) :
    (s.lowestKey = none ∧ ∀ k, s.keyDown k = false) ∨
    (∃ k, s.lowestKey = some k ∧ s.keyDown k = true ∧ ∀ j : Nibble, j.toNat < k.toNat → s.keyDown j = false) := by
  unfold State.lowestKey
  cases h : List.find? (fun k => s.keyDown k) ((List.range 16).map (BitVec.ofNat 4)) with
  | none =>
    refine .inl ⟨rfl, fun k => ?_⟩
    rw [List.find?_eq_none] at h
    have hk : k ∈ (List.range 16).map (BitVec.ofNat 4) := by
      refine List.mem_map.2 ⟨k.toNat, List.mem_range.2 k.isLt, ?_⟩
      exact BitVec.eq_of_toNat_eq (by simp)
    simpa using h k hk
  | some k =>
    refine .inr ⟨k, rfl, ?_, ?_⟩
    · exact List.find?_some h
    · intro j hj
      obtain ⟨-, i, hi, hik, hall⟩ := List.find?_eq_some_iff_getElem.1 h
      simp only [List.getElem_map, List.getElem_range, List.length_map, List.length_range] at hi hik hall
      have hk : k.toNat = i := by rw [← hik]; simp; omega
      have := hall j.toNat (by omega)
      simpa using this

/-- Everything `FX0A` can do (R163). -/
theorem execLdVxK_cases (x : Nibble) (s : State) :
    ((∀ k, s.keyDown k = false) ∧ execLdVxK x s = .next s) ∨
    (∃ k, s.keyDown k = true ∧ (∀ j : Nibble, j.toNat < k.toNat → s.keyDown j = false) ∧
      execLdVxK x s = .next (s.setV x (k.setWidth 8)).nextInstr) := by
  unfold execLdVxK
  rcases lowestKey_cases s with ⟨h, h'⟩ | ⟨k, h, h', h''⟩
  · exact .inl ⟨h', by rw [h]⟩
  · exact .inr ⟨k, h', h'', by rw [h]⟩

/-- Everything an undefined word can do (R184): a fatal fault, or `pc` past it and a report. -/
theorem undefinedWord_cases (s : State) (w : Word) :
    (s.cfg.unimplStrict = true ∧ s.undefinedWord w = s.raise .unimplementedOpcode w) ∨
    (s.cfg.unimplStrict = false ∧ s.undefinedWord w =
      { s with pc := s.pc + 2, out := { s.out with unimpl := true, unimplWord := w } }) := by
  unfold State.undefinedWord
  cases h : s.cfg.unimplStrict <;> simp

/-- Everything `Step(rand)` can do (R90): what a step does on the state with the host's byte, the byte then gone. -/
theorem stepEvent_next {s t : State} {rand : Byte} (h : s.stepEvent rand = .next t) :
    ∃ u, step (s.withRand (some rand)) = .next u ∧ t = u.withRand none := by
  unfold State.stepEvent at h
  cases e : step (s.withRand (some rand)) <;> rw [e] at h <;> cases h
  exact ⟨_, rfl, rfl⟩

/-- Everything `Load` can do where it is an event (R174). -/
theorem loadEvent_next {s t : State} {bytes : List Byte} (h : s.loadEvent bytes = .next t) :
    bytes.length ≤ 3584 ∧ t = loadFrom 0x200 bytes s := by
  unfold State.loadEvent at h
  split at h <;> cases h
  exact ⟨‹_›, rfl⟩

end Sys2Proof.Machine
end

