-- ==== Sys2Proof/Tests/Slice0.lean ====
section
/-! SUPPORT. Tests. The expected results of the decode and step tests are words and vectors of spec/95_test_vectors.md
(the id stands in the docstring) or are worked by hand from a rule; the witnesses at the end meet the hypotheses of the
obligations. -/

namespace Sys2Proof.Tests

open Sys2Proof Sys2Proof.Machine Host

/-! ## Small states -/

/-- The reset state with some registers set. -/
def regs (l : List (Nibble × Byte)) : State := l.foldl (fun s p => s.setV p.1 p.2) State.reset

/-- Some bytes put in memory. -/
def bytesAt (l : List (Addr × Byte)) (s : State) : State := l.foldl (fun s p => s.writeByte p.1 p.2) s

/-- SHIFT_USES_VY set. -/
def shiftVY (s : State) : State := { s with cfg := { s.cfg with shiftUsesVY := true } }

/-- UNIMPL_STRICT set. -/
def strict (s : State) : State := { s with cfg := { s.cfg with unimplStrict := true } }

/-- The outcome is a next state of which `p` holds. -/
def nextWith (o : Outcome State Fault Refusal) (p : State → Bool) : Bool :=
  match o with
  | .next t => p t
  | .fault _ => false
  | .refused _ => false

/-- One Step of the word `w` from `s`, and what then holds. -/
def runs (w : Nat) (s : State) (p : State → Bool) : Bool := nextWith (step (s.withFetchWord 16 w)) p

/-! ## Well-formedness: what no row of the opcode map admits -/

/-- E1, E4: the checks let an instruction through. -/
theorem test_wf_accepts : [0x00E0, 0x10E0, 0x9120, 0xF165].all (fun w => wellFormedWord w) = true := by decide

/-- E3: family 0 has two words. -/
theorem test_wf_refuses_family_0 : [0x0000, 0x00E1, 0x00FF, 0x0123, 0x0FFF].any (fun w => wellFormedWord w) = false := by
  decide

/-- E6, E9: the low nibble of families 5 and 9 is 0. -/
theorem test_wf_refuses_families_5_9 : [0x5121, 0x512F, 0x9125].any (fun w => wellFormedWord w) = false := by decide

/-- E8: the low nibbles of family 8 that are undefined. -/
theorem test_wf_refuses_family_8 :
    [0x8128, 0x8129, 0x812A, 0x812B, 0x812C, 0x812D, 0x812F].any (fun w => wellFormedWord w) = false := by decide

/-- E10, E12: low bytes of families E and F that are undefined. -/
theorem test_wf_refuses_families_E_F :
    [0xE19F, 0xE000, 0xE1A0, 0xF100, 0xF11F, 0xF166, 0xF1FF, 0xF175, 0xF185].any (fun w => wellFormedWord w) = false := by
  decide

/-! ## Decoding: one word written out for every row -/

/-- The words of each of the 34 rows, from the map and match column of R74 and the fields of R71. -/
theorem test_decode_families_0_to_7 :
    [0x00E0, 0x00EE, 0x10E0, 0x2ABC, 0x3A5C, 0x4A5C, 0x5A30, 0x6A5C, 0x7A5C].map decodeWord =
      [some .cls, some .ret, some (.jp 0x0E0), some (.call 0xABC), some (.seImm 0xA 0x5C), some (.sneImm 0xA 0x5C),
       some (.seReg 0xA 0x3), some (.ldImm 0xA 0x5C), some (.addImm 0xA 0x5C)] := by decide

/-- E7. -/
theorem test_decode_family_8 :
    [0x8120, 0x8121, 0x8122, 0x8123, 0x8124, 0x8125, 0x8126, 0x8127, 0x812E].map decodeWord =
      [some (.ldReg 1 2), some (.orReg 1 2), some (.andReg 1 2), some (.xorReg 1 2), some (.addReg 1 2),
       some (.subReg 1 2), some (.shr 1 2), some (.subnReg 1 2), some (.shl 1 2)] := by decide

/-- E9, E10, S12 and the words of families A to D. -/
theorem test_decode_families_9_to_E :
    [0x9120, 0xA2F0, 0xB300, 0xC30F, 0xD12F, 0xE19E, 0xE1A1].map decodeWord =
      [some (.sneReg 1 2), some (.ldI 0x2F0), some (.jpV0 0x300), some (.rnd 3 0x0F), some (.drw 1 2 0xF),
       some (.skp 1), some (.sknp 1)] := by decide

/-- E11. -/
theorem test_decode_family_F :
    [0xF107, 0xF10A, 0xF115, 0xF118, 0xF11E, 0xF129, 0xF133, 0xF155, 0xF165].map decodeWord =
      [some (.ldVxDt 1), some (.ldVxK 1), some (.ldDtVx 1), some (.ldStVx 1), some (.addI 1), some (.ldF 1),
       some (.ldB 1), some (.storeRegs 1), some (.loadRegs 1)] := by decide

/-- S11: two bytes, the high one first; R80 and R70 for what is no instruction. -/
theorem test_decode_bytes :
    decode [0xA2, 0xF0, 0x12] = .instr (.ldI 0x2F0) [0x12] ∧ decode [0x00, 0xE1, 0x12] = .undefinedWord 0x00E1 [0x12] ∧
      decode [0xA2] = .truncated ∧ decode [] = .truncated := by decide

theorem test_decode_table_word :
    decodeTableWord 16 0x00EE = some .ret ∧ decodeTableWord 16 0xD12F = some (.drw 1 2 0xF) ∧
      decodeTableWord 16 0x8128 = none ∧ decodeTableWord 16 0x100E0 = none := by decide

/-- R74: the patterns of three shapes, written out. -/
theorem test_encode :
    encode (.call 0xABC) = 0x2ABC ∧ encode (.drw 0x1 0x2 0xF) = 0xD12F ∧ encode (.storeRegs 0xA) = 0xFA55 := by decide

/-- The opcode map has 34 rows, and no two of them admit a word (R73): where their masks overlap, their values differ. -/
theorem test_rows_disjoint :
    opcodeMap.length = 34 ∧
      opcodeMap.Pairwise (fun r q => r.value &&& (r.mask &&& q.mask) ≠ q.value &&& (r.mask &&& q.mask)) := by decide

/-! ## Reset, Load and the fetch -/

/-- R37, S10: the pc, a font byte, the last font byte, the first byte after it. -/
theorem test_reset :
    State.reset.pc = 0x200 ∧ State.reset.readByte 0x005 = 0x20 ∧ State.reset.readByte 0x04F = 0x80 ∧
      State.reset.readByte 0x050 = 0 ∧ State.reset.sp = 0 ∧ State.reset.fault = none := by decide

/-- H7. -/
theorem test_load_then_step :
    nextWith (runEvents [.load [0x60, 0x05], .step 0xB7] State.reset)
      (fun t => t.readByte 0x200 == 0x60 && t.readByte 0x201 == 0x05 && t.v 0 == 5 && t.pc == 0x202) = true := by decide

/-- CF4, X1. -/
theorem test_fetch_fault :
    runs 0x1FFF State.reset (fun t => t.pc == 0xFFF &&
      nextWith (step t) (fun u => u.fault == some ⟨.fetch, 0xFFF, 0⟩ && u.pc == 0xFFF)) = true := by decide

/-- X8 and section 2.1: an undefined word is skipped and reported, or faults under UNIMPL_STRICT. -/
theorem test_undefined_word :
    runs 0x5011 State.reset (fun t => t.pc == 0x202 && t.out == ⟨false, false, true, 0x5011⟩ && t.fault == none) = true ∧
      runs 0x5011 (strict State.reset)
        (fun t => t.pc == 0x200 && t.out == EventOutput.zero && t.fault == some ⟨.unimplementedOpcode, 0x200, 0x5011⟩) =
      true := by decide

/-! ## Control flow -/

/-- CF8, CF10. -/
theorem test_ret :
    runs 0x00EE { State.reset with sp := 2, stack := (State.reset.stack.set 0 0x300).set 1 0x400 }
      (fun t => t.pc == 0x400 && t.sp == 1 && t.stack[1] == 0x400) = true := by decide

/-- CF9. -/
theorem test_ret_underflow :
    runs 0x00EE State.reset (fun t => t.pc == 0x200 && t.fault == some ⟨.stackUnderflow, 0x200, 0x00EE⟩) = true := by
  decide

/-- CF3: odd, no fault. -/
theorem test_jp : runs 0x1203 State.reset (fun t => t.pc == 0x203 && t.fault == none) = true := by decide

/-- CF6. -/
theorem test_call :
    runs 0x2300 { State.reset with sp := 15 } (fun t => t.pc == 0x300 && t.sp == 16 && t.stack[15] == 0x202) = true := by
  decide

/-- CF7. -/
theorem test_call_overflow :
    runs 0x2300 { State.reset with sp := 16 }
      (fun t => t.pc == 0x200 && t.sp == 16 && t.fault == some ⟨.stackOverflow, 0x200, 0x2300⟩) = true := by decide

/-- CF11, CF12. -/
theorem test_seImm :
    runs 0x3000 State.reset (fun t => t.pc == 0x204) = true ∧
      runs 0x3000 (regs [(0, 1)]) (fun t => t.pc == 0x202) = true := by decide

/-- CF15, CF16. -/
theorem test_sneImm :
    runs 0x4311 (regs [(3, 0x10)]) (fun t => t.pc == 0x204) = true ∧
      runs 0x4310 (regs [(3, 0x10)]) (fun t => t.pc == 0x202) = true := by decide

/-- CF17, CF18. -/
theorem test_seReg :
    runs 0x5120 (regs [(1, 7), (2, 7)]) (fun t => t.pc == 0x204) = true ∧
      runs 0x5120 (regs [(1, 7), (2, 8)]) (fun t => t.pc == 0x202) = true := by decide

/-- CF20, CF21. -/
theorem test_sneReg :
    runs 0x9120 (regs [(1, 7), (2, 8)]) (fun t => t.pc == 0x204) = true ∧
      runs 0x9120 (regs [(1, 7), (2, 7)]) (fun t => t.pc == 0x202) = true := by decide

/-- CF24, CF25. -/
theorem test_jpV0 :
    runs 0xBFFF (regs [(0, 0xFF)]) (fun t => t.pc == 0x10FE) = true ∧
      runs 0xB300 (regs [(0, 0x01), (3, 0x80)]) (fun t => t.pc == 0x301) = true := by decide

/-! ## Register ALU -/

/-- A1. -/
theorem test_ldImm : runs 0x6A2B State.reset (fun t => t.v 0xA == 0x2B && t.pc == 0x202) = true := by decide

/-- S2, A4. -/
theorem test_addImm :
    runs 0x730A (regs [(3, 250), (0xF, 0x5A)]) (fun t => t.v 3 == 4 && t.v 0xF == 0x5A) = true ∧
      runs 0x7FFF State.reset (fun t => t.v 0xF == 0xFF) = true := by decide

/-- A5. -/
theorem test_ldReg : runs 0x8120 (regs [(2, 0x5A)]) (fun t => t.v 1 == 0x5A && t.v 2 == 0x5A) = true := by decide

/-- A7. -/
theorem test_orReg :
    runs 0x8121 (regs [(1, 0xF0), (2, 0x0F), (0xF, 1)]) (fun t => t.v 1 == 0xFF && t.v 0xF == 1) = true := by decide

/-- A9. -/
theorem test_andReg :
    runs 0x8122 (regs [(1, 0xF3), (2, 0x3C), (0xF, 1)]) (fun t => t.v 1 == 0x30 && t.v 0xF == 1) = true := by decide

/-- A10. -/
theorem test_xorReg :
    runs 0x8123 (regs [(1, 0xFF), (2, 0x0F), (0xF, 1)]) (fun t => t.v 1 == 0xF0 && t.v 0xF == 1) = true := by decide

/-- S3, A13. -/
theorem test_addReg :
    runs 0x8124 (regs [(1, 200), (2, 100)]) (fun t => t.v 1 == 44 && t.v 2 == 100 && t.v 0xF == 1) = true ∧
      runs 0x8124 (regs [(1, 0x7F), (2, 0x80), (0xF, 1)]) (fun t => t.v 1 == 0xFF && t.v 0xF == 0) = true := by decide

/-- F1, F3, F5. -/
theorem test_addReg_flag_operand :
    runs 0x8F14 (regs [(0xF, 5), (1, 0xFE)]) (fun t => t.v 0xF == 0xFF) = true ∧
      runs 0x81F4 (regs [(1, 0xF0), (0xF, 0x20)]) (fun t => t.v 1 == 0xF1 && t.v 0xF == 1) = true ∧
      runs 0x8FF4 (regs [(0xF, 0x80)]) (fun t => t.v 0xF == 2) = true := by decide

/-- S4, A17. -/
theorem test_subReg :
    runs 0x8125 (regs [(1, 5), (2, 10), (0xF, 1)]) (fun t => t.v 1 == 251 && t.v 2 == 10 && t.v 0xF == 0) = true ∧
      runs 0x8125 (regs [(1, 7), (2, 7)]) (fun t => t.v 1 == 0 && t.v 0xF == 1) = true := by decide

/-- F8, F9, F11. -/
theorem test_subReg_flag_operand :
    runs 0x8F15 (regs [(0xF, 3), (1, 4)]) (fun t => t.v 0xF == 0xFC) = true ∧
      runs 0x81F5 (regs [(1, 9), (0xF, 4)]) (fun t => t.v 1 == 8 && t.v 0xF == 1) = true ∧
      runs 0x8FF5 (regs [(0xF, 0x55)]) (fun t => t.v 0xF == 0) = true := by decide

/-- A30, F18. -/
theorem test_shr :
    runs 0x8126 (regs [(1, 5), (2, 8)]) (fun t => t.v 1 == 2 && t.v 0xF == 1) = true ∧
      runs 0x81F6 (regs [(1, 4), (0xF, 3)]) (fun t => t.v 1 == 2 && t.v 0xF == 0) = true := by decide

/-- A30, F18, with SHIFT_USES_VY. -/
theorem test_shr_vy :
    runs 0x8126 (shiftVY (regs [(1, 5), (2, 8)])) (fun t => t.v 1 == 4 && t.v 2 == 8 && t.v 0xF == 0) = true ∧
      runs 0x81F6 (shiftVY (regs [(1, 4), (0xF, 3)])) (fun t => t.v 1 == 0 && t.v 0xF == 1) = true := by decide

/-- A20, A21. -/
theorem test_subnReg :
    runs 0x8127 (regs [(1, 5), (2, 10)]) (fun t => t.v 1 == 5 && t.v 2 == 10 && t.v 0xF == 1) = true ∧
      runs 0x8127 (regs [(1, 10), (2, 5), (0xF, 1)]) (fun t => t.v 1 == 251 && t.v 0xF == 0) = true := by decide

/-- F13, F14, F16. -/
theorem test_subnReg_flag_operand :
    runs 0x8F17 (regs [(0xF, 9), (1, 4)]) (fun t => t.v 0xF == 4) = true ∧
      runs 0x81F7 (regs [(1, 3), (0xF, 4)]) (fun t => t.v 1 == 0xFE && t.v 0xF == 1) = true ∧
      runs 0x8FF7 (regs [(0xF, 0x55)]) (fun t => t.v 0xF == 0) = true := by decide

/-- A34, F20. -/
theorem test_shl :
    runs 0x812E (regs [(1, 0x81), (2, 0x40)]) (fun t => t.v 1 == 2 && t.v 0xF == 1) = true ∧
      runs 0x8F2E (regs [(0xF, 0x81), (2, 0x41)]) (fun t => t.v 0xF == 2) = true := by decide

/-- A34, F20, with SHIFT_USES_VY. -/
theorem test_shl_vy :
    runs 0x812E (shiftVY (regs [(1, 0x81), (2, 0x40)])) (fun t => t.v 1 == 0x80 && t.v 2 == 0x40 && t.v 0xF == 0) =
      true ∧
      runs 0x8F2E (shiftVY (regs [(0xF, 0x81), (2, 0x41)])) (fun t => t.v 0xF == 0x82) = true := by decide

/-- A23: the host's byte, which is then used up. -/
theorem test_rnd :
    runs 0xC30F (State.reset.withRand (some 0xB7)) (fun t => t.v 3 == 0x07 && t.randIn == none && t.draws == 1) =
      true := by decide

/-- A24: a free draw under the mask 0 is 0, whatever it is. -/
theorem test_rnd_free (s : State) : nextWith (exec (.rnd 3 0x00) s) (fun t => t.v 3 == 0) = true := by
  simp [exec, execRnd, nextWith]

/-! ## Index register and memory -/

/-- M1. -/
theorem test_ldI : runs 0xA2F0 { State.reset with I := 0xFFFF } (fun t => t.I == 0x02F0) = true := by decide

/-- M5, M7. -/
theorem test_addI :
    runs 0xF11E { regs [(1, 1)] with I := 0x0FFF } (fun t => t.I == 0x1000 && t.v 0xF == 1) = true ∧
      runs 0xF11E { regs [(1, 2)] with I := 0xFFFF } (fun t => t.I == 0x0001 && t.v 0xF == 1) = true := by decide

/-- M8, M9. -/
theorem test_addI_flag_operand :
    runs 0xFF1E { regs [(0xF, 0x20)] with I := 0x0100 } (fun t => t.I == 0x0100 && t.v 0xF == 0) = true ∧
      runs 0xFF1E { regs [(0xF, 0x20)] with I := 0x0FF0 } (fun t => t.I == 0x0FF1 && t.v 0xF == 1) = true := by decide

/-- M10, M11. -/
theorem test_ldF :
    runs 0xF229 (regs [(2, 0x0A)]) (fun t => t.I == 0x0032) = true ∧
      runs 0xF229 (regs [(2, 0xFF)]) (fun t => t.I == 0x04FB) = true := by decide

/-- M13. -/
theorem test_ldB :
    runs 0xF033 { regs [(0, 156)] with I := 0x300 }
      (fun t => t.readByte 0x300 == 1 && t.readByte 0x301 == 5 && t.readByte 0x302 == 6 && t.I == 0x300) = true := by
  decide

/-- M15: past the end of memory, over the font. -/
theorem test_ldB_wraps :
    runs 0xF033 { regs [(0, 255)] with I := 0x0FFF }
      (fun t => t.readByte 0xFFF == 2 && t.readByte 0x000 == 5 && t.readByte 0x001 == 5 && t.readByte 0x002 == 0x90) =
      true := by decide

/-- M16, M17. -/
theorem test_storeRegs :
    runs 0xF155 { regs [(0, 0x12), (1, 0x08), (2, 0x77)] with I := 0x300 }
      (fun t => t.readByte 0x300 == 0x12 && t.readByte 0x301 == 0x08 && t.readByte 0x302 == 0 && t.I == 0x302) =
      true := by decide

/-- M19. -/
theorem test_storeRegs_wraps :
    runs 0xF255 { regs [(0, 0xAA), (1, 0xBB), (2, 0xCC)] with I := 0x0FFE }
      (fun t => t.readByte 0xFFE == 0xAA && t.readByte 0xFFF == 0xBB && t.readByte 0x000 == 0xCC && t.I == 0x1001) =
      true := by decide

/-- M21. -/
theorem test_loadRegs :
    runs 0xF265 { bytesAt [(0x300, 1), (0x301, 5), (0x302, 6)] (regs [(3, 0x99)]) with I := 0x300 }
      (fun t => t.v 0 == 1 && t.v 1 == 5 && t.v 2 == 6 && t.v 3 == 0x99 && t.I == 0x303) = true := by decide

/-- M23: the font of R23. -/
theorem test_loadRegs_font :
    runs 0xFF65 State.reset (fun t => t.I == 0x10 && t.x == #v[0xF0, 0x90, 0x90, 0x90, 0xF0, 0x20, 0x60, 0x20, 0x20, 0x70,
      0xF0, 0x10, 0xF0, 0x80, 0xF0, 0xF0]) = true := by decide

/-! ## Display -/

/-- D1. -/
theorem test_cls :
    runs 0x00E0 { regs [(0xF, 7)] with disp := (Display.blank.toggle 0 0).toggle 63 31 }
      (fun t => !t.pixel 0 0 && !t.pixel 63 31 && t.v 0xF == 7 && t.out == ⟨true, false, false, 0⟩) = true := by decide

/-- D4: a sprite over both edges. D7, last step: one collision is enough. -/
theorem test_drw :
    runs 0xD012 { bytesAt [(0x20A, 0xF0), (0x20B, 0x81)] (regs [(0, 62), (1, 31)]) with I := 0x20A }
      (fun t => t.pixel 62 31 && t.pixel 1 31 && !t.pixel 2 31 && t.pixel 62 0 && !t.pixel 63 0 && t.pixel 5 0 &&
        t.v 0xF == 0 && t.out == ⟨true, false, false, 0⟩) = true ∧
    runs 0xD001 { bytesAt [(0x301, 0x60)] State.reset with
        I := 0x301, disp := (Display.blank.toggle 0 0).toggle 1 0 }
      (fun t => t.pixel 0 0 && !t.pixel 1 0 && t.pixel 2 0 && t.v 0xF == 1) = true := by decide

/-! ## Keypad and timers -/

/-- K2, K3. -/
theorem test_skp :
    runs 0xE49E (regs [(4, 0x03)]) (fun t => t.pc == 0x202) = true ∧
      runs 0xE49E ((regs [(4, 0x13)]).latchKey 3 true) (fun t => t.pc == 0x204) = true := by decide

/-- K4, K5. -/
theorem test_sknp :
    runs 0xE4A1 (regs [(4, 0x03)]) (fun t => t.pc == 0x204) = true ∧
      runs 0xE4A1 ((regs [(4, 0x03)]).latchKey 3 true) (fun t => t.pc == 0x202) = true := by decide

/-- K7. -/
theorem test_ldVxK :
    runs 0xF00A ((State.reset.latchKey 9 true).latchKey 3 true) (fun t => t.v 0 == 3 && t.pc == 0x202) = true := by decide

/-- K6. -/
theorem test_ldVxK_waits :
    runs 0xF00A (regs [(0, 0x55)]) (fun t => t == (regs [(0, 0x55)]).withFetchWord 16 0xF00A) = true := by decide

/-- K10. -/
theorem test_ldVxDt : runs 0xF107 { State.reset with DT := 0x2A } (fun t => t.v 1 == 0x2A && t.DT == 0x2A) = true := by
  decide

/-- K11. -/
theorem test_ldDtVx : runs 0xF115 (regs [(1, 60)]) (fun t => t.DT == 60 && t.ST == 0) = true := by decide

/-- K12. -/
theorem test_ldStVx :
    runs 0xF118 (regs [(1, 3)]) (fun t => t.ST == 3 && t.DT == 0 && t.soundActive && !t.out.audioCue) = true := by decide

/-! ## Host events -/

/-- H1, H3. -/
theorem test_tick :
    nextWith (State.apply { State.reset with DT := 2, ST := 1 } .tick)
        (fun t => t.DT == 1 && t.ST == 0 && t.out == ⟨false, true, false, 0⟩) = true ∧
      State.apply State.reset .tick = .next State.reset := ⟨by decide, rfl⟩

/-- H6. -/
theorem test_setKey :
    nextWith (runEvents [.setKey 3 true, .setKey 5 true, .setKey 3 false] State.reset)
      (fun t => t.key == State.reset.key.set 5 true) = true := by decide

/-- H9, X9. -/
theorem test_reset_event :
    State.apply { bytesAt [(0x000, 1), (0x300, 2)] (regs [(0, 1), (0xF, 2)]) with
      fault := some ⟨.fetch, 0x1000, 0⟩, sp := 16, pc := 0x1000, DT := 4 } .reset = .next State.reset := rfl

/-! ## What the double draw law leaves out (log 25) -/

/-- R151 by hand, over two Steps: with the sprite's one cell on before the first draw, the first draw turns it off (VF = 1)
and the second turns it on again with no collision, so VF ends as 0 although the sprite has a set bit. -/
theorem test_double_draw_over_lit_cell :
    runs 0xD001 { bytesAt [(0x202, 0xD0), (0x203, 0x01), (0x300, 0x80)] State.reset with
        I := 0x300, disp := Display.blank.toggle 0 0 }
      (fun t => t.v 0xF == 1 && !t.pixel 0 0 && nextWith (step t) (fun u => u.v 0xF == 0 && u.pixel 0 0)) = true := by
  decide

/-! ## Witnesses: for each obligation with hypotheses, states and operands that meet them, a clause at a time -/

/-- The reset state with the word `w` where the machine fetches. -/
def placed (w : Nat) : State := State.reset.withFetchWord 16 w

/-- A machine with a latched fault: an empty stack met by the `00EE` at 0x200. -/
def faulted : State := { placed 0x00EE with fault := some ⟨.stackUnderflow, 0x200, 0x00EE⟩ }

theorem witness_EncodeAfterDecode : decodeWord 0xFFFF = none ∧ decodeWord 0xFF65 = some (.loadRegs 0xF) := by decide

theorem witness_StepRunsDecodedInstruction : Executes (placed 0x6A2B) (.ldImm 0xA 0x2B) :=
  ⟨rfl, by decide, by decide⟩

/-- The last address a fetch may begin at. -/
theorem witness_StepRunsDecodedInstruction_end :
    Executes ({ State.reset with pc := 0xFFE }.withFetchWord 16 0x1FFE) (.jp 0xFFE) :=
  ⟨rfl, by decide, by decide⟩

theorem witness_FaultedStepChangesNothing : faulted.fault = some ⟨.stackUnderflow, 0x200, 0x00EE⟩ := rfl

/-- The least and the greatest `pc` of a failing fetch (R28). -/
theorem witness_FetchBeyondMemoryFaults :
    let s : State := { State.reset with pc := 0xFFF }
    let t : State := { State.reset with pc := 0x10FE }
    (s.fault = none ∧ s.pc.toNat + 1 > 4095) ∧ (t.fault = none ∧ t.pc.toNat + 1 > 4095) := by decide

theorem witness_UndefinedWordSkippedOrFaults_skipped :
    FetchesUndefined (placed 0x5011) 0x5011 ∧ (placed 0x5011).cfg.unimplStrict = false :=
  ⟨⟨rfl, by decide, by decide⟩, rfl⟩

theorem witness_UndefinedWordSkippedOrFaults_strict :
    FetchesUndefined (strict (placed 0xF175)) 0xF175 ∧ (strict (placed 0xF175)).cfg.unimplStrict = true :=
  ⟨⟨rfl, by decide, by decide⟩, rfl⟩

/-- A Step with each of the bits, and one with none. -/
theorem witness_StepOutcomeBits :
    runs 0x00E0 State.reset (fun t => t.out.displayChanged) = true ∧
      runs 0xD000 State.reset (fun t => t.out.displayChanged) = true ∧
      runs 0x0000 State.reset (fun t => t.out.unimpl) = true ∧
      runs 0x6A2B State.reset (fun t => t.out == EventOutput.zero) = true := by decide

/-- One and sixteen return addresses held. -/
theorem witness_ReturnPopsReturnAddress :
    0 < ({ State.reset with sp := 1 } : State).sp.val ∧ 0 < ({ State.reset with sp := 16 } : State).sp.val := by decide

theorem witness_ReturnOnEmptyStackFaults : State.reset.sp.val = 0 := rfl

/-- None and fifteen return addresses held. -/
theorem witness_CallPushesAndJumps :
    State.reset.sp.val < 16 ∧ ({ State.reset with sp := 15 } : State).sp.val < 16 := by decide

theorem witness_CallOnFullStackFaults : ({ State.reset with sp := 16 } : State).sp.val = 16 := rfl

/-- The state after the call of `230A` at 0x204 (S5). -/
def called : State :=
  { bytesAt [(0x204, 0x23), (0x205, 0x0A), (0x30A, 0x00), (0x30B, 0xEE)] State.reset with
    pc := 0x30A, sp := 1, stack := State.reset.stack.set 0 0x206 }

/-- S5: the call, and the return at its target. -/
theorem witness_CallThenReturnRestores :
    let s : State := { called with pc := 0x204, sp := 0, stack := State.reset.stack }
    s.sp.val < 16 ∧ Executes s (.call 0x30A) ∧ step s = .next called ∧ Executes called .ret :=
  ⟨by decide, ⟨rfl, by decide, by decide⟩, rfl, ⟨rfl, by decide, by decide⟩⟩

/-- The carry at its boundary, 255 none and 256 one, with VF as neither, the second, both and the first operand. -/
theorem witness_AddWithCarry :
    (let s := regs [(1, 0x80), (2, 0x80)]
     1 = if (s.v 1).toNat + (s.v 2).toNat > 255 then 1 else 0) ∧
    (let s := regs [(1, 0x7F), (0xF, 0x80)]
     0 = if (s.v 1).toNat + (s.v 0xF).toNat > 255 then 1 else 0) ∧
    (let s := regs [(0xF, 0x80)]
     1 = if (s.v 0xF).toNat + (s.v 0xF).toNat > 255 then 1 else 0) ∧
    (let s := regs [(0xF, 0x80), (1, 0x80)]
     1 = if (s.v 0xF).toNat + (s.v 1).toNat > 255 then 1 else 0) := by decide

/-- No borrow at its boundary: equal operands, and one apart, in both directions, with VF as neither, the second, the
first and both operands. -/
theorem witness_SubtractWithBorrow :
    (let s := regs [(1, 7), (2, 7)]
     1 = if (s.v 1).toNat ≥ (s.v 2).toNat then 1 else 0) ∧
    (let s := regs [(1, 7), (0xF, 8)]
     0 = if (s.v 1).toNat ≥ (s.v 0xF).toNat then 1 else 0) ∧
    (let s := regs [(1, 7), (0xF, 8)]
     1 = if (s.v 0xF).toNat ≥ (s.v 1).toNat then 1 else 0) ∧
    (let s := regs [(0xF, 8)]
     1 = if (s.v 0xF).toNat ≥ (s.v 0xF).toNat then 1 else 0) := by decide

/-- Both settings, and the source VF. -/
theorem witness_ShiftByOne :
    (1 : Nibble) = (if State.reset.cfg.shiftUsesVY then 2 else 1) ∧
      (2 : Nibble) = (if (shiftVY State.reset).cfg.shiftUsesVY then 2 else 1) ∧
      (0xF : Nibble) = (if (shiftVY State.reset).cfg.shiftUsesVY then 0xF else 1) := by decide

/-- The host's byte, and no byte of the host's. -/
theorem witness_RandomUnderMask :
    (State.reset.withRand (some 0xB7)).randIn = some 0xB7 ∧ State.reset.randIn = none := by decide

theorem witness_StepDrawsHostByte : Executes (placed 0xC30F) (.rnd 3 0x0F) := ⟨rfl, by decide, by decide⟩

theorem witness_OnlyRandomReadsRand : ∀ x nn, ¬ Executes (placed 0x6305) (.rnd x nn) := by
  intro x nn h
  have : Executes (placed 0x6305) (.ldImm 3 0x05) := ⟨rfl, by decide, by decide⟩
  exact Instr.noConfusion (executes_unique h this)

/-- The sum at its boundary: 0xFFF is no overflow, 0x1000 is one; and VF as the operand. -/
theorem witness_AddToIndex :
    (let s : State := { regs [(1, 1)] with I := 0x0FFE }
     0 = if s.I.toNat + (s.v 1).toNat > 0x0FFF then 1 else 0) ∧
    (let s : State := { regs [(1, 1)] with I := 0x0FFF }
     1 = if s.I.toNat + (s.v 1).toNat > 0x0FFF then 1 else 0) ∧
    (let s : State := { regs [(0xF, 0x20)] with I := 0x0FF0 }
     1 = if s.I.toNat + (s.v 0xF).toNat > 0x0FFF then 1 else 0) := by decide

/-- The digits and the addresses where they are stored, past the end of memory, and an address that keeps its byte. -/
theorem witness_DecimalDigitsStored :
    ea 0x0FFF 0 = 0xFFF ∧ ea 0x0FFF 2 = 0x001 ∧ ∀ k, k < 3 → (0x002 : Addr) ≠ ea 0x0FFF k := by decide

/-- X = 0xF: the first and the last register, and the first address after them. -/
theorem witness_RegistersStored :
    (0 : Nibble).toNat ≤ (0xF : Nibble).toNat ∧ (0xF : Nibble).toNat ≤ (0xF : Nibble).toNat ∧
      ∀ k, k ≤ (0xF : Nibble).toNat → (0x410 : Addr) ≠ ea 0x0400 k := by decide

/-- X = 0: the one register loaded, and the first above it. -/
theorem witness_RegistersLoaded :
    (0 : Nibble).toNat ≤ (0 : Nibble).toNat ∧ (0 : Nibble).toNat < (1 : Nibble).toNat := by decide

theorem witness_DataAddressWraps : ea 0xFFFF 15 = ea 0xFFFF 15 ∧ (15 : Nat) < 16 ∧ (ea 0xFFFF 1).toNat = 0 := by decide

/-- D3: a cell the sprite covers, over both edges, and one it does not cover. -/
theorem witness_SpriteTogglesCoveredCells :
    let s : State := { bytesAt [(0x300, 0x80)] (regs [(0, 70), (1, 33)]) with I := 0x300 }
    SpriteCovers s (s.v 0).toNat (s.v 1).toNat 1 6 1 ∧ ¬ SpriteCovers s (s.v 0).toNat (s.v 1).toNat 1 7 1 := by
  refine ⟨⟨0, 0, by decide⟩, ?_⟩
  rintro ⟨row, col, hrow, hcol, hbit, hx, -⟩
  obtain rfl : row = 0 := by omega
  have hv : ((70 : Byte)).toNat = 70 := rfl
  have : col = 1 := by
    change (70 + col) % 64 = 7 at hx
    omega
  subst this
  exact absurd hbit (by decide)

/-- A collision: the covered cell is on. -/
theorem witness_SpriteCollisionFlag :
    let s : State := { bytesAt [(0x300, 0x80)] State.reset with I := 0x300, disp := Display.blank.toggle 0 0 }
    (0 < 64 ∧ 0 < 32 ∧ SpriteCovers s (s.v 0).toNat (s.v 0).toNat 1 0 0) ∧ s.pixel 0 0 = true := by
  exact ⟨⟨by decide, by decide, 0, 0, by decide⟩, by decide⟩

/-- No collision: a sprite of no rows covers nothing. -/
theorem witness_SpriteCollisionFlag_none :
    ¬ ∃ px py, px < 64 ∧ py < 32 ∧
      SpriteCovers State.reset (State.reset.v 0).toNat (State.reset.v 0).toNat 0 px py ∧
        State.reset.pixel px py = true := by
  rintro ⟨px, py, -, -, ⟨row, col, h, -⟩, -⟩
  omega

/-- S6: a blank display, a sprite with a set bit, and the state after the first draw as the state of the second. -/
theorem witness_DoubleDrawRestores :
    let s : State := { bytesAt [(0x300, 0x80)] State.reset with I := 0x300 }
    ∃ t, exec (.drw 0 1 1) s = .next t ∧ t.I = s.I ∧ t.v 0 = s.v 0 ∧ t.v 1 = s.v 1 ∧
      (∀ k, k < 1 → t.readByte (ea s.I k) = s.readByte (ea s.I k)) ∧ (∀ px py, s.pixel px py = false) ∧
      ∃ k, k < 1 ∧ s.readByte (ea s.I k) ≠ 0 :=
  ⟨_, rfl, rfl, rfl, rfl, fun _ _ => rfl, Display.pixel_blank, 0, by decide, by decide⟩

/-- S6, caveat: a sprite of zero bytes. -/
theorem witness_DoubleDrawRestores_zero :
    let s : State := { State.reset with I := 0x300 }
    (∃ t, exec (.drw 0 1 1) s = .next t) ∧ ∀ k, k < (1 : Nibble).toNat → s.readByte (ea s.I k) = 0 :=
  ⟨⟨_, rfl⟩, by decide⟩

/-- Key 15, of a VX above 15 (R160). -/
theorem witness_KeySkips : 15 = ((regs [(4, 0x1F)]).v 4).toNat % 16 ∧ 0 = ((regs [(4, 0x10)]).v 4).toNat % 16 := by
  decide

/-- No key; key 0; key 15 with none below it. -/
theorem witness_KeyWait :
    (∀ k (hk : k < 16), State.reset.key[k] = false) ∧
      (let s := State.reset.latchKey 0 true
       s.key[0] = true) ∧
      (let s := State.reset.latchKey 15 true
       s.key[15] = true ∧ ∀ j (hj : j < 15), s.key[j] = false) := by decide

theorem witness_LoadWritesProgram (b : Byte) :
    (List.replicate 3584 b).length ≤ 3584 ∧ 3584 < (List.replicate 3585 b).length ∧
      (0x1FF : Addr).toNat < 0x200 ∧ 0x200 + [b].length ≤ (0x201 : Addr).toNat := by
  rw [List.length_replicate, List.length_replicate]
  exact ⟨Nat.le_refl _, Nat.lt_succ_self _, by decide, Nat.le_refl _⟩

theorem witness_ResetGivesResetState : State.reset.cfg = defaultConfig ∧ State.reset.draws = State.reset.draws := ⟨rfl, rfl⟩

/-- M15: a Step that stores, three cells listed and over the font. -/
theorem witness_CanonicalMemoryKept :
    let s : State := { placed 0xF033 with I := 0x0FFF }
    s.memWf ∧ (∃ t, step s = .next t) ∧ ∃ t, s.apply (.load [0x60, 0x05]) = .next t :=
  ⟨by unfold State.memWf; decide, ⟨_, rfl⟩, ⟨_, rfl⟩⟩

/-- Written in two orders, and with a byte written back to its reset value. -/
theorem witness_CanonicalMemoryUnique :
    let s := bytesAt [(0x300, 1), (0x301, 2)] State.reset
    let t := bytesAt [(0x301, 2), (0x005, 9), (0x300, 1), (0x005, 0x20)] State.reset
    s.memWf ∧ t.memWf ∧ s.cfg = t.cfg ∧ s.mem = t.mem ∧ SameMemory s t :=
  ⟨by unfold State.memWf; decide, by unfold State.memWf; decide, rfl, by decide, fun _ => rfl⟩

/-- The greatest return address, held by the call at 0x0FFE (CF26), and its Step. -/
theorem witness_PcRangeKept :
    let s : State := { State.reset with pc := 0xFFE }.withFetchWord 16 0x2300
    s.pcInRange ∧ ∃ t, step s = .next t ∧ t.stack[0] = 0x1000 ∧ t.sp = 1 :=
  ⟨⟨by decide, fun k hk => absurd hk (Nat.not_lt_zero k)⟩, _, rfl, by decide, by decide⟩

/-- No fault and a Step that latches one; a latched fault and a Tick. -/
theorem witness_FaultsStayPrecise :
    (placed 0x00EE).faultPrecise ∧ step (placed 0x00EE) = .next faulted ∧ faulted.faultPrecise ∧
      ∃ t, faulted.apply .tick = .next t := by
  refine ⟨fun r h => (nomatch h), rfl, fun r h => ?_, _, rfl⟩
  cases h
  exact ⟨rfl, rfl, rfl⟩

theorem witness_FaultLatchIsSticky :
    faulted.fault = some ⟨.stackUnderflow, 0x200, 0x00EE⟩ ∧ Event.load [0x60, 0x05] ≠ .reset ∧
      ∀ bytes, Event.load [0x60, 0x05] = .load bytes → bytes.length ≤ 3584 := by
  refine ⟨rfl, by decide, fun bytes h => ?_⟩
  cases h
  decide

theorem witness_ConfigurationIsFixed :
    (∃ t, step (placed 0x8126) = .next t) ∧ ∃ t, (placed 0x8126).apply .reset = .next t := ⟨⟨_, rfl⟩, _, rfl⟩

theorem witness_OnlyCallAndReturnTouchStack :
    ∃ t, step (placed 0x220A) = .next t ∧ (t.sp ≠ (placed 0x220A).sp ∨ t.stack ≠ (placed 0x220A).stack) :=
  ⟨_, rfl, .inl (by decide)⟩

theorem witness_OnlyStoresWriteMemory :
    let s : State := { placed 0xF033 with x := State.reset.x.set 0 156, I := 0x300 }
    ∃ t, step s = .next t ∧ t.readByte 0x302 ≠ s.readByte 0x302 := ⟨_, rfl, by decide⟩

theorem witness_OnlyDisplayWritersTouchDisplay :
    let s : State := { placed 0x00E0 with disp := Display.blank.toggle 5 5 }
    ∃ t, step s = .next t ∧ t.disp ≠ s.disp := by
  refine ⟨_, rfl, fun h => ?_⟩
  have : Display.pixel Display.blank 5 5 = Display.pixel (Display.blank.toggle 5 5) 5 5 := congrArg (·.pixel 5 5) h
  exact absurd this (by decide)

theorem witness_StepLeavesKeysAndTimers :
    let s : State := { placed 0xF115 with x := State.reset.x.set 1 60 }
    let u : State := { placed 0xF118 with x := State.reset.x.set 1 60 }
    (∃ t, step s = .next t ∧ t.DT ≠ s.DT) ∧ ∃ t, step u = .next t ∧ t.ST ≠ u.ST :=
  ⟨⟨_, rfl, by decide⟩, _, rfl, by decide⟩

/-- VF as a flag, and as a destination. -/
theorem witness_FlagRegisterWriters :
    (∃ t, step (placed 0x8125) = .next t ∧ t.v 0xF ≠ (placed 0x8125).v 0xF) ∧
      ∃ t, step (placed 0x6F01) = .next t ∧ t.v 0xF ≠ (placed 0x6F01).v 0xF :=
  ⟨⟨_, rfl, by decide⟩, _, rfl, by decide⟩

theorem witness_SelfJumpRepeats : Executes (placed 0x1200) (.jp 0x200) ∧ (0x200 : Addr).toNat = (placed 0x1200).pc.toNat :=
  ⟨⟨rfl, by decide, by decide⟩, rfl⟩

end Sys2Proof.Tests
end

section
/-! The layer that the proofs of control flow share: frames through an update of `pc`, what the meaning of each
instruction is, and the value of a zero-extended address. -/

namespace Sys2Proof.Machine

/-! ### Frames -/

theorem Frame.refl (regs : List Nibble) (parts : List Part) (s : State) : Frame regs parts s s where
  sameRegs _ _ := rfl
  sameIndex _ := rfl
  sameMemory _ _ := rfl
  sameStack _ := ⟨rfl, rfl⟩
  sameDisplay _ := rfl
  sameKeys _ := rfl
  sameDelayTimer _ := rfl
  sameSoundTimer _ := rfl
  sameLatch _ := rfl
  sameOutput _ := rfl
  sameRandom _ := ⟨rfl, rfl⟩
  sameConfig := rfl

/-- No frame speaks of `pc`, so that an update of it keeps every frame. -/
theorem Frame.setPc {regs : List Nibble} {parts : List Part} {s t : State} (h : Frame regs parts s t) (p : Word) :
    Frame regs parts s (t.setPc p) where
  sameRegs := h.sameRegs
  sameIndex := h.sameIndex
  sameMemory := h.sameMemory
  sameStack := h.sameStack
  sameDisplay := h.sameDisplay
  sameKeys := h.sameKeys
  sameDelayTimer := h.sameDelayTimer
  sameSoundTimer := h.sameSoundTimer
  sameLatch := h.sameLatch
  sameOutput := h.sameOutput
  sameRandom := h.sameRandom
  sameConfig := h.sameConfig

/-- A skip is an update of `pc`, taken or not. -/
theorem Frame.skipIf {regs : List Nibble} {parts : List Part} {s t : State} (h : Frame regs parts s t) (c : Bool) :
    Frame regs parts s (t.skipIf c) := h.setPc _

/-! ### Meanings (R101, R103 to R106) -/

@[simp] theorem zextAddr_toNat (nnn : Addr) : (zextAddr nnn).toNat = nnn.toNat :=
  BitVec.toNat_setWidth_of_le (by decide)

theorem exec_jp (nnn : Addr) (s : State) : exec (.jp nnn) s = .next (s.setPc (zextAddr nnn)) := rfl

theorem exec_seImm (x : Nibble) (nn : Byte) (s : State) :
    exec (.seImm x nn) s = .next (s.skipIf (s.v x == nn)) := rfl

theorem exec_sneImm (x : Nibble) (nn : Byte) (s : State) :
    exec (.sneImm x nn) s = .next (s.skipIf (s.v x != nn)) := rfl

theorem exec_seReg (x y : Nibble) (s : State) :
    exec (.seReg x y) s = .next (s.skipIf (s.v x == s.v y)) := rfl

theorem exec_sneReg (x y : Nibble) (s : State) :
    exec (.sneReg x y) s = .next (s.skipIf (s.v x != s.v y)) := rfl

/-! ### Skips -/

/-- The content of every skip: where the meaning of `i` is to skip on `c`, and `c` tests `P`, then `pc` advances by `P`
and nothing else changes. -/
theorem exists_next_of_exec_skipIf {i : Instr} {s : State} {c : Bool} {P : Prop} [Decidable P]
    (hexec : exec i s = .next (s.skipIf c)) (htest : c = true ↔ P) :
    ∃ t, exec i s = .next t ∧ t.pc = s.pc + (if P then 4 else 2) ∧ Frame [] [] s t := by
  have hpc : (s.skipIf c).pc = s.pc + (if P then 4 else 2) := by simp only [State.skipIf_pc, htest]
  exact ⟨s.skipIf c, hexec, hpc, (Frame.refl [] [] s).skipIf c⟩

end Sys2Proof.Machine
end

section
/-! Control flow (41_control_flow.md): the statements settled. -/

namespace Sys2Proof.Machine

/-- Settles O15: the only write of `1NNN` is to `pc`, and zero extension keeps the value of NNN (R101). -/
theorem jumpSetsPc : Obligations.JumpSetsPc := fun s nnn =>
  ⟨s.setPc (zextAddr nnn), exec_jp nnn s, zextAddr_toNat nnn, (Frame.refl [] [] s).setPc _⟩

/-- Settles O18: each of the four meanings is a skip on a test that decides its comparison (R103 to R106). -/
theorem skipsCompare : Obligations.SkipsCompare := fun s x y nn =>
  ⟨exists_next_of_exec_skipIf (exec_seImm x nn s) beq_iff_eq,
    exists_next_of_exec_skipIf (exec_sneImm x nn s) bne_iff_ne,
    exists_next_of_exec_skipIf (exec_seReg x y s) beq_iff_eq,
    exists_next_of_exec_skipIf (exec_sneReg x y s) bne_iff_ne⟩

end Sys2Proof.Machine
end

section
/-! The layer that the proofs of the register ALU share: frames through a register write, what the meaning of each
instruction is, and the one shape of the instructions that write VX and no flag. -/

namespace Sys2Proof.Machine

/-! ### Frames -/

/-- A write to a register that the frame lets change keeps the frame. -/
theorem Frame.setV {regs : List Nibble} {parts : List Part} {s t : State} (h : Frame regs parts s t) {x : Nibble}
    (hx : x ∈ regs) (b : Byte) : Frame regs parts s (t.setV x b) where
  sameRegs i hi :=
    have hne : i ≠ x := fun heq => hi (heq ▸ hx)
    (t.v_setV_other b hne).trans (h.sameRegs i hi)
  sameIndex := h.sameIndex
  sameMemory := h.sameMemory
  sameStack := h.sameStack
  sameDisplay := h.sameDisplay
  sameKeys := h.sameKeys
  sameDelayTimer := h.sameDelayTimer
  sameSoundTimer := h.sameSoundTimer
  sameLatch := h.sameLatch
  sameOutput := h.sameOutput
  sameRandom := h.sameRandom
  sameConfig := h.sameConfig

/-- The advance to the next instruction is an update of `pc`. -/
theorem Frame.nextInstr {regs : List Nibble} {parts : List Part} {s t : State} (h : Frame regs parts s t) :
    Frame regs parts s t.nextInstr := h.setPc _

/-! ### Meanings (R121 to R126) -/

theorem exec_ldImm (x : Nibble) (nn : Byte) (s : State) : exec (.ldImm x nn) s = .next (s.setV x nn).nextInstr := rfl

theorem exec_addImm (x : Nibble) (nn : Byte) (s : State) :
    exec (.addImm x nn) s = .next (s.setV x (s.v x + nn)).nextInstr := rfl

theorem exec_ldReg (x y : Nibble) (s : State) : exec (.ldReg x y) s = .next (s.setV x (s.v y)).nextInstr := rfl

theorem exec_orReg (x y : Nibble) (s : State) :
    exec (.orReg x y) s = .next (s.setV x (s.v x ||| s.v y)).nextInstr := rfl

theorem exec_andReg (x y : Nibble) (s : State) :
    exec (.andReg x y) s = .next (s.setV x (s.v x &&& s.v y)).nextInstr := rfl

theorem exec_xorReg (x y : Nibble) (s : State) :
    exec (.xorReg x y) s = .next (s.setV x (s.v x ^^^ s.v y)).nextInstr := rfl

/-! ### One register written -/

/-- The content of every flagless register instruction: where the meaning of `i` is to write `b` to VX and go on, VX then
has every property `P` of `b`, `pc` advances by 2, and nothing else changes. X may be 0xF. -/
theorem exists_next_of_exec_setV {i : Instr} {s : State} {x : Nibble} {b : Byte} (P : Byte → Prop)
    (hexec : exec i s = .next (s.setV x b).nextInstr) (hb : P b) :
    ∃ t, exec i s = .next t ∧ P (t.v x) ∧ t.pc = s.pc + 2 ∧ Frame [x] [] s t := by
  have hvx : (s.setV x b).nextInstr.v x = b := by simp only [State.nextInstr_v, State.v_setV_same]
  have hframe : Frame [x] [] s (s.setV x b) := (Frame.refl [x] [] s).setV List.mem_cons_self b
  exact ⟨(s.setV x b).nextInstr, hexec, hvx.symm ▸ hb, rfl, hframe.nextInstr⟩

end Sys2Proof.Machine
end

section
/-! Register ALU (42_register_alu.md): the statements settled. -/

namespace Sys2Proof.Machine

/-- Settles O21: both meanings write VX alone, and the sum of two bytes is the sum on naturals modulo 256 (R121, R122). -/
theorem loadAndAddImmediate : Obligations.LoadAndAddImmediate := fun s x nn =>
  ⟨exists_next_of_exec_setV (· = nn) (exec_ldImm x nn s) rfl,
    exists_next_of_exec_setV (·.toNat = ((s.v x).toNat + nn.toNat) % 256) (exec_addImm x nn s)
      (BitVec.toNat_add (s.v x) nn)⟩

/-- Settles O22: each of the four meanings writes VX alone, and the logical operations act bit by bit (R123 to R126). -/
theorem moveAndLogic : Obligations.MoveAndLogic := fun s x y =>
  ⟨exists_next_of_exec_setV (· = s.v y) (exec_ldReg x y s) rfl,
    exists_next_of_exec_setV (fun r => ∀ b, b < 8 → r.getLsbD b = ((s.v x).getLsbD b || (s.v y).getLsbD b))
      (exec_orReg x y s) fun _ _ => BitVec.getLsbD_or,
    exists_next_of_exec_setV (fun r => ∀ b, b < 8 → r.getLsbD b = ((s.v x).getLsbD b && (s.v y).getLsbD b))
      (exec_andReg x y s) fun _ _ => BitVec.getLsbD_and,
    exists_next_of_exec_setV (fun r => ∀ b, b < 8 → r.getLsbD b = ((s.v x).getLsbD b ^^ (s.v y).getLsbD b))
      (exec_xorReg x y s) fun _ _ => BitVec.getLsbD_xor⟩

end Sys2Proof.Machine
end

section
/-! The layer that the proofs of the index register share: the frame through a write to `I`, and what the meaning of the
instruction is. -/

namespace Sys2Proof.Machine

/-! ### Frames -/

/-- A write to `I` keeps the frames that let `I` change. -/
theorem Frame.setI {regs : List Nibble} {parts : List Part} {s t : State} (h : Frame regs parts s t)
    (hindex : Part.index ∈ parts) (w : Word) : Frame regs parts s (t.setI w) where
  sameRegs := h.sameRegs
  sameIndex hnot := absurd hindex hnot
  sameMemory := h.sameMemory
  sameStack := h.sameStack
  sameDisplay := h.sameDisplay
  sameKeys := h.sameKeys
  sameDelayTimer := h.sameDelayTimer
  sameSoundTimer := h.sameSoundTimer
  sameLatch := h.sameLatch
  sameOutput := h.sameOutput
  sameRandom := h.sameRandom
  sameConfig := h.sameConfig

/-! ### Meanings (R140) -/

theorem exec_ldI (nnn : Addr) (s : State) : exec (.ldI nnn) s = .next (s.setI (zextAddr nnn)).nextInstr := rfl

end Sys2Proof.Machine
end

section
/-! Index register and memory (43_index_memory.md): the statements settled. -/

namespace Sys2Proof.Machine

/-- Settles O29: the only write of `ANNN` besides `pc` is to `I`, and zero extension keeps the value of NNN, which is
below 4096, so that the four high bits are 0 (R140). -/
theorem loadIndex : Obligations.LoadIndex := fun s nnn =>
  have hframe : Frame [] [.index] s (s.setI (zextAddr nnn)) :=
    (Frame.refl [] [.index] s).setI List.mem_cons_self (zextAddr nnn)
  ⟨(s.setI (zextAddr nnn)).nextInstr, exec_ldI nnn s, zextAddr_toNat nnn, rfl, hframe.nextInstr⟩

end Sys2Proof.Machine
end

section
/-! The layer that the proofs of the timers share: the frames through a write to `DT` and to `ST`, and what the meaning of
each instruction is. -/

namespace Sys2Proof.Machine

/-! ### Frames -/

/-- A write to `DT` keeps the frames that let the delay timer change. -/
theorem Frame.setDT {regs : List Nibble} {parts : List Part} {s t : State} (h : Frame regs parts s t)
    (hdelay : Part.delayTimer ∈ parts) (b : Byte) : Frame regs parts s (t.setDT b) where
  sameRegs := h.sameRegs
  sameIndex := h.sameIndex
  sameMemory := h.sameMemory
  sameStack := h.sameStack
  sameDisplay := h.sameDisplay
  sameKeys := h.sameKeys
  sameDelayTimer hnot := absurd hdelay hnot
  sameSoundTimer := h.sameSoundTimer
  sameLatch := h.sameLatch
  sameOutput := h.sameOutput
  sameRandom := h.sameRandom
  sameConfig := h.sameConfig

/-- A write to `ST` keeps the frames that let the sound timer change. -/
theorem Frame.setST {regs : List Nibble} {parts : List Part} {s t : State} (h : Frame regs parts s t)
    (hsound : Part.soundTimer ∈ parts) (b : Byte) : Frame regs parts s (t.setST b) where
  sameRegs := h.sameRegs
  sameIndex := h.sameIndex
  sameMemory := h.sameMemory
  sameStack := h.sameStack
  sameDisplay := h.sameDisplay
  sameKeys := h.sameKeys
  sameDelayTimer := h.sameDelayTimer
  sameSoundTimer hnot := absurd hsound hnot
  sameLatch := h.sameLatch
  sameOutput := h.sameOutput
  sameRandom := h.sameRandom
  sameConfig := h.sameConfig

/-! ### Meanings (R164 to R166) -/

theorem exec_ldVxDt (x : Nibble) (s : State) : exec (.ldVxDt x) s = .next (s.setV x s.DT).nextInstr := rfl

theorem exec_ldDtVx (x : Nibble) (s : State) : exec (.ldDtVx x) s = .next (s.setDT (s.v x)).nextInstr := rfl

theorem exec_ldStVx (x : Nibble) (s : State) : exec (.ldStVx x) s = .next (s.setST (s.v x)).nextInstr := rfl

end Sys2Proof.Machine
end

section
/-! Keypad and timers (45_keypad_timers.md): the statements settled. -/

namespace Sys2Proof.Machine

/-- Settles O42: `FX07` is a register write of the value of `DT`, and `FX15` and `FX18` each write their own timer and no
other part (R164 to R166). -/
theorem timerMoves : Obligations.TimerMoves := fun s x =>
  have hdelay : Frame [] [.delayTimer] s (s.setDT (s.v x)) :=
    (Frame.refl [] [.delayTimer] s).setDT List.mem_cons_self (s.v x)
  have hsound : Frame [] [.soundTimer] s (s.setST (s.v x)) :=
    (Frame.refl [] [.soundTimer] s).setST List.mem_cons_self (s.v x)
  ⟨exists_next_of_exec_setV (· = s.DT) (exec_ldVxDt x s) rfl,
    ⟨(s.setDT (s.v x)).nextInstr, exec_ldDtVx x s, rfl, rfl, hdelay.nextInstr⟩,
    ⟨(s.setST (s.v x)).nextInstr, exec_ldStVx x s, rfl, rfl, hsound.nextInstr⟩⟩

end Sys2Proof.Machine
end

section
/-! The layer that the proofs of reset share: the reset contents of memory address by address, and what each accessor
reads after `Reset`. -/

namespace Sys2Proof.Machine

/-! ### The reset contents of memory (R22, R37) -/

/-- A glyph has 5 bytes, so that division by 5 finds the glyph and its row again. -/
theorem resetByte_glyph (c : Config) {d r : Nat} (hd : d < 16) (hr : r < 5) :
    resetByte c (5 * d + r) = (c.font[d]'hd)[r]'hr := by
  have hlt : 5 * d + r < 80 := by omega
  have hglyph : (5 * d + r) / 5 = d := by omega
  have hrow : (5 * d + r) % 5 = r := by omega
  simp only [resetByte, hlt, dite_true, hglyph, hrow]

theorem resetByte_of_font_le (c : Config) {a : Nat} (ha : 0x050 ≤ a) : resetByte c a = 0 :=
  dif_neg (Nat.not_lt.mpr ha)

/-! ### After `Reset` (R37, R200) -/

theorem State.apply_reset (s : State) : s.apply .reset = .next s.resetEvent := rfl

/-- After `Reset` no cell is listed: each reads as its reset contents under the configuration, which stays (R34). -/
theorem State.resetEvent_readByte (s : State) (a : Addr) : s.resetEvent.readByte a = resetByte s.cfg a.toNat := rfl

theorem State.resetEvent_readByte_glyph (s : State) {d r : Nat} (hd : d < 16) (hr : r < 5) :
    s.resetEvent.readByte (BitVec.ofNat 12 (5 * d + r)) = (s.cfg.font[d]'hd)[r]'hr := by
  have haddr : (BitVec.ofNat 12 (5 * d + r)).toNat = 5 * d + r := Nat.mod_eq_of_lt (by omega)
  rw [State.resetEvent_readByte, haddr, resetByte_glyph s.cfg hd hr]

theorem State.resetEvent_v (s : State) (i : Nibble) : s.resetEvent.v i = 0 := Vector.getElem_replicate i.isLt

theorem State.resetEvent_stack (s : State) {k : Nat} (hk : k < 16) : s.resetEvent.stack[k]'hk = 0 :=
  Vector.getElem_replicate hk

theorem State.resetEvent_pixel (s : State) (px py : Nat) : s.resetEvent.pixel px py = false :=
  Display.pixel_blank px py

theorem State.resetEvent_keyDown (s : State) (k : Nibble) : s.resetEvent.keyDown k = false :=
  Vector.getElem_replicate k.isLt

end Sys2Proof.Machine
end

section
/-! Reset (70_reset_and_hazards.md): the statement settled. -/

namespace Sys2Proof.Machine

/-- Settles O46: memory reads as its reset contents, the four vectors are constant, and every scalar field is a constant
of the reset state (R200). -/
theorem resetValues : Obligations.ResetValues := fun s =>
  ⟨s.resetEvent, s.apply_reset,
    fun _ _ hd hr => s.resetEvent_readByte_glyph hd hr,
    fun a ha => (s.resetEvent_readByte a).trans (resetByte_of_font_le s.cfg ha),
    s.resetEvent_v, rfl, rfl, fun _ hk => s.resetEvent_stack hk, rfl,
    s.resetEvent_pixel, s.resetEvent_keyDown, rfl, rfl, rfl⟩

end Sys2Proof.Machine
end

section
/-! The layer that the proofs of the encoding share: a word is made of its fields, what the decoder of each family reads
and refuses, and which rows of the opcode map admit a word. -/

namespace Sys2Proof

/-! ### A word is made of its fields (R71) -/

theorem append_fieldNNN {w : Word} {f : Nibble} (hfam : (fieldFam w).toNat = f.toNat) : f ++ fieldNNN w = w := by
  apply BitVec.eq_of_toNat_eq
  rw [fieldFam_toNat] at hfam
  rw [toNat_nnn, fieldNNN_toNat]
  omega

theorem append_fieldX_fieldNN {w : Word} {f : Nibble} (hfam : (fieldFam w).toNat = f.toNat) :
    f ++ fieldX w ++ fieldNN w = w := by
  apply BitVec.eq_of_toNat_eq
  rw [fieldFam_toNat] at hfam
  rw [toNat_xnn, fieldX_toNat, fieldNN_toNat]
  omega

theorem append_fieldX_fieldY_fieldN {w : Word} {f : Nibble} (hfam : (fieldFam w).toNat = f.toNat) :
    f ++ fieldX w ++ fieldY w ++ fieldN w = w := by
  apply BitVec.eq_of_toNat_eq
  rw [fieldFam_toNat] at hfam
  rw [toNat_xyn, fieldX_toNat, fieldY_toNat, fieldN_toNat]
  omega

/-! ### What the decoder of a family reads is encoded in that family -/

theorem encode_of_decodeFamily0 {nnn : Addr} {i : Instr} (h : decodeFamily0 nnn = some i) : encode i = 0x0#4 ++ nnn := by
  unfold decodeFamily0 at h
  split at h <;> cases h
  all_goals
    rename_i hnnn
    obtain ⟨-, rfl⟩ := BitVec.toNat_eq_nat.1 hnnn
    rfl

theorem encode_of_decodeFamily8 {x y n : Nibble} {i : Instr} (h : decodeFamily8 x y n = some i) :
    encode i = 0x8#4 ++ x ++ y ++ n := by
  unfold decodeFamily8 at h
  split at h <;> cases h
  all_goals
    rename_i hn
    obtain ⟨-, rfl⟩ := BitVec.toNat_eq_nat.1 hn
    rfl

theorem encode_of_decodeFamilyE {x : Nibble} {nn : Byte} {i : Instr} (h : decodeFamilyE x nn = some i) :
    encode i = 0xE#4 ++ x ++ nn := by
  unfold decodeFamilyE at h
  split at h <;> cases h
  all_goals
    rename_i hnn
    obtain ⟨-, rfl⟩ := BitVec.toNat_eq_nat.1 hnn
    rfl

theorem encode_of_decodeFamilyF {x : Nibble} {nn : Byte} {i : Instr} (h : decodeFamilyF x nn = some i) :
    encode i = 0xF#4 ++ x ++ nn := by
  unfold decodeFamilyF at h
  split at h <;> cases h
  all_goals
    rename_i hnn
    obtain ⟨-, rfl⟩ := BitVec.toNat_eq_nat.1 hnn
    rfl

/-- Families 5 and 9: the low nibble read is the 0 of the pattern. -/
theorem decodeLowZero_eq_some {n : Nibble} {i j : Instr} : decodeLowZero n i = some j ↔ n = 0x0#4 ∧ i = j := by
  simp [decodeLowZero]

theorem encode_of_decodeWord {w : Word} {i : Instr} (h : decodeWord w = some i) : encode i = w := by
  unfold decodeWord at h
  split at h
  case h_1 hfam => exact (encode_of_decodeFamily0 h).trans (append_fieldNNN hfam)
  case h_6 hfam =>
    obtain ⟨hn, rfl⟩ := decodeLowZero_eq_some.1 h
    rw [← append_fieldX_fieldY_fieldN (f := 0x5#4) hfam]
    simp [encode, hn]
  case h_9 hfam => exact (encode_of_decodeFamily8 h).trans (append_fieldX_fieldY_fieldN hfam)
  case h_10 hfam =>
    obtain ⟨hn, rfl⟩ := decodeLowZero_eq_some.1 h
    rw [← append_fieldX_fieldY_fieldN (f := 0x9#4) hfam]
    simp [encode, hn]
  case h_14 hfam => cases h; exact append_fieldX_fieldY_fieldN hfam
  case h_15 hfam => exact (encode_of_decodeFamilyE h).trans (append_fieldX_fieldNN hfam)
  case h_16 hfam => exact (encode_of_decodeFamilyF h).trans (append_fieldX_fieldNN hfam)
  case h_17 => cases h
  case h_2 hfam | h_3 hfam | h_11 hfam | h_12 hfam => cases h; exact append_fieldNNN hfam
  case h_4 hfam | h_5 hfam | h_7 hfam | h_8 hfam | h_13 hfam => cases h; exact append_fieldX_fieldNN hfam

theorem decodeWord_encode (i : Instr) : decodeWord (encode i) = some i := by
  cases i
  case cls | ret => rfl
  all_goals simp [encode, decodeWord, decodeLowZero, decodeFamily8, decodeFamilyE, decodeFamilyF]

/-! ### What the decoder of a family refuses (R75 to R80) -/

theorem decodeFamily0_eq_none (nnn : Addr) : decodeFamily0 nnn = none ↔ nnn.toNat ≠ 0x0E0 ∧ nnn.toNat ≠ 0x0EE := by
  unfold decodeFamily0
  split <;> simp_all

theorem decodeLowZero_eq_none (n : Nibble) (i : Instr) : decodeLowZero n i = none ↔ n.toNat ≠ 0 := by
  simp [decodeLowZero, ← BitVec.toNat_inj]

theorem decodeFamily8_eq_none (x y n : Nibble) :
    decodeFamily8 x y n = none ↔ n.toNat ∈ [0x8, 0x9, 0xA, 0xB, 0xC, 0xD, 0xF] := by
  have hn := n.isLt
  unfold decodeFamily8
  split
  case h_10 =>
    simp only [imp_false, List.mem_cons, List.not_mem_nil, or_false, true_iff] at *
    omega
  all_goals simp_all

theorem decodeFamilyE_eq_none (x : Nibble) (nn : Byte) :
    decodeFamilyE x nn = none ↔ nn.toNat ∉ [0x9E, 0xA1] := by
  unfold decodeFamilyE
  split <;> simp_all

theorem decodeFamilyF_eq_none (x : Nibble) (nn : Byte) :
    decodeFamilyF x nn = none ↔ nn.toNat ∉ [0x07, 0x0A, 0x15, 0x18, 0x1E, 0x29, 0x33, 0x55, 0x65] := by
  unfold decodeFamilyF
  split <;> simp_all

/-! ### Rows of the opcode map (R73, R74) -/

theorem fieldFam_and (a b : Word) : fieldFam (a &&& b) = fieldFam a &&& fieldFam b := BitVec.extractLsb'_and

theorem fieldN_and (a b : Word) : fieldN (a &&& b) = fieldN a &&& fieldN b := BitVec.extractLsb'_and

theorem fieldNN_and (a b : Word) : fieldNN (a &&& b) = fieldNN a &&& fieldNN b := BitVec.extractLsb'_and

theorem OpcodeRow.admits_iff (r : OpcodeRow) (w : Word) : r.admits w = true ↔ w &&& r.mask = r.value := beq_iff_eq

/-- Two rows that one word belongs to agree on the bits both look at. -/
theorem OpcodeRow.value_and_mask_eq {r r' : OpcodeRow} {w : Word} (h : r.admits w = true) (h' : r'.admits w = true) :
    r.value &&& r'.mask = r'.value &&& r.mask := by
  rw [← (r.admits_iff w).1 h, ← (r'.admits_iff w).1 h', BitVec.and_assoc, BitVec.and_assoc, BitVec.and_comm r.mask]

/-- No two rows of the map agree on the bits both look at. -/
theorem opcodeMap_exclusive : ∀ r ∈ opcodeMap, ∀ r' ∈ opcodeMap,
    r.value &&& r'.mask = r'.value &&& r.mask → r = r' := by decide

theorem opcodeMap_nodup : opcodeMap.Nodup := by decide

/-- A row that admits a word is the only one (R73). -/
theorem rowsOf_eq_singleton {w : Word} {r : OpcodeRow} (hr : r ∈ opcodeMap) (hw : r.admits w = true) :
    rowsOf w = [r] := by
  have hmem : ∀ r', r' ∈ rowsOf w ↔ r' ∈ [r] := by
    intro r'
    rw [rowsOf, List.mem_filter, List.mem_singleton]
    constructor
    · rintro ⟨hr', hw'⟩
      exact opcodeMap_exclusive r' hr' r hr (OpcodeRow.value_and_mask_eq hw' hw)
    · rintro rfl
      exact ⟨hr, hw⟩
  have hperm := (List.perm_ext_iff_of_nodup (opcodeMap_nodup.filter _) (List.nodup_singleton r)).2 hmem
  exact List.perm_singleton.1 hperm

theorem rowsOf_eq_nil {w : Word} (h : ∀ r ∈ opcodeMap, r.admits w ≠ true) : rowsOf w = [] :=
  List.filter_eq_nil_iff.2 h

/-- The row of every instruction, from the lemma of its constructor. -/
theorem encoded (i : Instr) : Laws.Encoded.Statement i :=
  match i with
  | .cls => Laws.Encoded.cls
  | .ret => Laws.Encoded.ret
  | .jp nnn => Laws.Encoded.jp nnn
  | .call nnn => Laws.Encoded.call nnn
  | .seImm x nn => Laws.Encoded.seImm x nn
  | .sneImm x nn => Laws.Encoded.sneImm x nn
  | .seReg x y => Laws.Encoded.seReg x y
  | .ldImm x nn => Laws.Encoded.ldImm x nn
  | .addImm x nn => Laws.Encoded.addImm x nn
  | .ldReg x y => Laws.Encoded.ldReg x y
  | .orReg x y => Laws.Encoded.orReg x y
  | .andReg x y => Laws.Encoded.andReg x y
  | .xorReg x y => Laws.Encoded.xorReg x y
  | .addReg x y => Laws.Encoded.addReg x y
  | .subReg x y => Laws.Encoded.subReg x y
  | .shr x y => Laws.Encoded.shr x y
  | .subnReg x y => Laws.Encoded.subnReg x y
  | .shl x y => Laws.Encoded.shl x y
  | .sneReg x y => Laws.Encoded.sneReg x y
  | .ldI nnn => Laws.Encoded.ldI nnn
  | .jpV0 nnn => Laws.Encoded.jpV0 nnn
  | .rnd x nn => Laws.Encoded.rnd x nn
  | .drw x y n => Laws.Encoded.drw x y n
  | .skp x => Laws.Encoded.skp x
  | .sknp x => Laws.Encoded.sknp x
  | .ldVxDt x => Laws.Encoded.ldVxDt x
  | .ldVxK x => Laws.Encoded.ldVxK x
  | .ldDtVx x => Laws.Encoded.ldDtVx x
  | .ldStVx x => Laws.Encoded.ldStVx x
  | .addI x => Laws.Encoded.addI x
  | .ldF x => Laws.Encoded.ldF x
  | .ldB x => Laws.Encoded.ldB x
  | .storeRegs x => Laws.Encoded.storeRegs x
  | .loadRegs x => Laws.Encoded.loadRegs x

end Sys2Proof
end

section
/-! Encoding (30_encoding.md): the statements settled. -/

namespace Sys2Proof

/-- Settles O1: the decoder finds the fields that the encoder put into the word, the bytes of a word are the word again, and
a word is below 65536. -/
theorem decodeAfterEncode : Obligations.DecodeAfterEncode := by
  intro i
  have hbytes : decode (encodeBytes i) = .instr i [] := by rw [encodeBytes, decode_wordBytes, decodeWord_encode]
  refine ⟨decodeWord_encode i, hbytes, ?_⟩
  rw [decodeTableWord, if_pos (encode i).isLt, BitVec.ofNat_toNat, BitVec.setWidth_eq]
  rw [encodeBytes] at hbytes
  rw [hbytes]

/-- Settles O2: each family refuses what its pattern does not fix, and keeps every other bit as a field. -/
theorem encodeAfterDecode : Obligations.EncodeAfterDecode := fun _ _ => encode_of_decodeWord

/-- Settles O4: family by family, what the decoder of the family refuses; the other ten refuse nothing. -/
theorem undefinedWordsByFamily : Obligations.UndefinedWordsByFamily := by
  intro w
  unfold decodeWord
  split
  case h_1 hfam =>
    have hlt := w.isLt
    rw [fieldFam_toNat] at hfam
    rw [decodeFamily0_eq_none, fieldNNN_toNat, hfam]
    simp
    omega
  case h_17 =>
    have hlt := w.isLt
    simp only [fieldFam_toNat, imp_false] at *
    omega
  all_goals
    rename_i hfam
    rw [fieldFam_toNat] at hfam
    simp only [hfam, decodeLowZero_eq_none, decodeFamily8_eq_none, decodeFamilyE_eq_none, decodeFamilyF_eq_none,
      fieldN_toNat, fieldNN_toNat]
    simp

/-- The value of every row is defined, and its mask looks at every bit on which the definedness of its family rests. -/
theorem opcodeMap_sound : ∀ r ∈ opcodeMap, decodeWord r.value ≠ none ∧ fieldFam r.mask = 0xF ∧
    (r.value.toNat / 4096 = 0x0 → r.mask = 0xFFFF) ∧
    (r.value.toNat / 4096 ∈ [0x5, 0x8, 0x9] → fieldN r.mask = 0xF) ∧
    (r.value.toNat / 4096 ∈ [0xE, 0xF] → fieldNN r.mask = 0xFF) := by decide

/-- A word that a row admits is undefined only if the value of the row is, since the two agree where it matters. -/
theorem decodeWord_ne_none_of_admits {r : OpcodeRow} {w : Word} (hr : r ∈ opcodeMap) (hw : r.admits w = true) :
    decodeWord w ≠ none := by
  obtain ⟨hvalue, hfam, hfull, hn, hnn⟩ := opcodeMap_sound r hr
  have heq := (r.admits_iff w).1 hw
  have efam : w.toNat / 4096 = r.value.toNat / 4096 := by
    rw [← fieldFam_toNat, ← fieldFam_toNat, ← heq, fieldFam_and, hfam]
    exact congrArg BitVec.toNat (BitVec.and_allOnes (x := fieldFam w)).symm
  have en (h : fieldN r.mask = 0xF) : w.toNat % 16 = r.value.toNat % 16 := by
    rw [← fieldN_toNat, ← fieldN_toNat, ← heq, fieldN_and, h]
    exact congrArg BitVec.toNat (BitVec.and_allOnes (x := fieldN w)).symm
  have enn (h : fieldNN r.mask = 0xFF) : w.toNat % 256 = r.value.toNat % 256 := by
    rw [← fieldNN_toNat, ← fieldNN_toNat, ← heq, fieldNN_and, h]
    exact congrArg BitVec.toNat (BitVec.and_allOnes (x := fieldNN w)).symm
  have efull (h : r.mask = 0xFFFF) : w = r.value := by
    rw [← heq, h]
    exact (BitVec.and_allOnes (x := w)).symm
  intro h
  apply hvalue
  have hundef := (undefinedWordsByFamily w).1 h
  refine (undefinedWordsByFamily r.value).2 ?_
  rw [efam] at hundef
  rcases hundef with ⟨hf, h⟩ | ⟨hf, h⟩ | ⟨hf, h⟩ | ⟨hf, h⟩ | ⟨hf, h⟩ | ⟨hf, h⟩
  · exact .inl ⟨hf, efull (hfull hf) ▸ h⟩
  · exact .inr (.inl ⟨hf, en (hn (by simp [hf])) ▸ h⟩)
  · exact .inr (.inr (.inl ⟨hf, en (hn (by simp [hf])) ▸ h⟩))
  · exact .inr (.inr (.inr (.inl ⟨hf, en (hn (by simp [hf])) ▸ h⟩)))
  · exact .inr (.inr (.inr (.inr (.inl ⟨hf, enn (hnn (by simp [hf])) ▸ h⟩))))
  · exact .inr (.inr (.inr (.inr (.inr ⟨hf, enn (hnn (by simp [hf])) ▸ h⟩))))

/-- Settles O3: a defined word is an encoding, so that the row of its instruction admits it and no other row does; an
undefined word is admitted by no row. -/
theorem decoderFollowsOpcodeMap : Obligations.DecoderFollowsOpcodeMap := by
  intro w
  cases h : decodeWord w with
  | none =>
    rw [rowsOf_eq_nil fun r hr hw => decodeWord_ne_none_of_admits hr hw h]
    rfl
  | some i =>
    obtain ⟨r, hr, hname, hw⟩ := encoded i
    rw [encode_of_decodeWord h] at hw
    rw [rowsOf_eq_singleton hr hw]
    simp [hname]

/-- Settles O5: the decoder evaluated on nineteen fixed words. -/
theorem specWordsDecode : Obligations.SpecWordsDecode := by
  unfold Obligations.SpecWordsDecode
  decide

end Sys2Proof
end

section
/-! The layer that the proofs about Steps share: frames through every update, which registers and parts an instruction
can write, and the one relation that every meaning satisfies. -/

namespace Sys2Proof.Machine

variable {regs : List Nibble} {parts : List Part} {s t : State}

/-! ### Frames -/

/-- A frame may be widened. -/
theorem Frame.mono {regs' : List Nibble} {parts' : List Part} (h : Frame regs parts s t) (hregs : regs ⊆ regs')
    (hparts : parts ⊆ parts') : Frame regs' parts' s t where
  sameRegs i hi := h.sameRegs i fun hmem => hi (hregs hmem)
  sameIndex hn := h.sameIndex fun hmem => hn (hparts hmem)
  sameMemory hn := h.sameMemory fun hmem => hn (hparts hmem)
  sameStack hn := h.sameStack fun hmem => hn (hparts hmem)
  sameDisplay hn := h.sameDisplay fun hmem => hn (hparts hmem)
  sameKeys hn := h.sameKeys fun hmem => hn (hparts hmem)
  sameDelayTimer hn := h.sameDelayTimer fun hmem => hn (hparts hmem)
  sameSoundTimer hn := h.sameSoundTimer fun hmem => hn (hparts hmem)
  sameLatch hn := h.sameLatch fun hmem => hn (hparts hmem)
  sameOutput hn := h.sameOutput fun hmem => hn (hparts hmem)
  sameRandom hn := h.sameRandom fun hmem => hn (hparts hmem)
  sameConfig := h.sameConfig

theorem Frame.writeByte (h : Frame regs parts s t) (hpart : Part.memory ∈ parts) (a : Addr) (b : Byte) :
    Frame regs parts s (t.writeByte a b) :=
  { h with sameMemory := absurd hpart }

theorem Frame.push (h : Frame regs parts s t) (hpart : Part.stack ∈ parts) (a : Word) (hroom : t.sp.val < 16) :
    Frame regs parts s (t.push a hroom) :=
  { h with sameStack := absurd hpart }

theorem Frame.dropTop (h : Frame regs parts s t) (hpart : Part.stack ∈ parts) (hheld : 0 < t.sp.val) :
    Frame regs parts s (t.dropTop hheld) :=
  { h with sameStack := absurd hpart }

theorem Frame.setDisp (h : Frame regs parts s t) (hpart : Part.display ∈ parts) (hout : Part.output ∈ parts)
    (d : Display) : Frame regs parts s (t.setDisp d) :=
  { h with sameDisplay := absurd hpart, sameOutput := absurd hout }

theorem Frame.drawn (h : Frame regs parts s t) (hpart : Part.random ∈ parts) : Frame regs parts s t.drawn :=
  { h with sameRandom := absurd hpart }

theorem Frame.withRand (h : Frame regs parts s t) (hpart : Part.random ∈ parts) (r : Option Byte) :
    Frame regs parts s (t.withRand r) :=
  { h with sameRandom := absurd hpart }

theorem Frame.raise (h : Frame regs parts s t) (hpart : Part.latch ∈ parts) (c : FaultCause) (w : Word) :
    Frame regs parts s (t.raise c w) :=
  { h with sameLatch := absurd hpart }

theorem Frame.beginStep (h : Frame regs parts s t) (hpart : Part.output ∈ parts) : Frame regs parts s t.beginStep :=
  { h with sameOutput := absurd hpart }

/-- A frame from the start of a Step is a frame from before it, but for the outputs. -/
theorem Frame.of_beginStep (h : Frame regs parts s.beginStep t) : Frame regs (.output :: parts) s t :=
  { h.mono (List.Subset.refl regs) (List.subset_cons_self _ _) with sameOutput := absurd List.mem_cons_self }

/-! ### What an instruction can write -/

/-- The registers an instruction can write: VX, VF where it has a flag, and V0 to VX for `FX65`. -/
def regsWritten : Instr → List Nibble
  | .ldImm x _ | .addImm x _ | .ldReg x _ | .orReg x _ | .andReg x _ | .xorReg x _ | .rnd x _ | .ldVxDt x | .ldVxK x => [x]
  | .addReg x _ | .subReg x _ | .shr x _ | .subnReg x _ | .shl x _ => [x, 0xF]
  | .addI _ | .drw _ _ _ => [0xF]
  | .loadRegs x => (List.range (x.toNat + 1)).map (BitVec.ofNat 4)
  | _ => []

/-- The other parts of the state an instruction can write. -/
def partsWritten : Instr → List Part
  | .cls | .drw _ _ _ => [.display, .output]
  | .ret | .call _ => [.stack, .latch]
  | .rnd _ _ => [.random]
  | .ldI _ | .addI _ | .ldF _ | .loadRegs _ => [.index]
  | .ldB _ => [.memory]
  | .storeRegs _ => [.memory, .index]
  | .ldDtVx _ => [.delayTimer]
  | .ldStVx _ => [.soundTimer]
  | _ => []

theorem stack_mem_partsWritten {i : Instr} : Part.stack ∈ partsWritten i ↔ i = .ret ∨ ∃ nnn, i = .call nnn := by
  cases i <;> simp [partsWritten]

theorem latch_mem_partsWritten {i : Instr} : Part.latch ∈ partsWritten i ↔ i = .ret ∨ ∃ nnn, i = .call nnn := by
  cases i <;> simp [partsWritten]

theorem display_mem_partsWritten {i : Instr} :
    Part.display ∈ partsWritten i ↔ i = .cls ∨ ∃ x y n, i = .drw x y n := by
  cases i <;> simp [partsWritten]

theorem output_mem_partsWritten {i : Instr} :
    Part.output ∈ partsWritten i ↔ i = .cls ∨ ∃ x y n, i = .drw x y n := by
  cases i <;> simp [partsWritten]

theorem memory_mem_partsWritten {i : Instr} :
    Part.memory ∈ partsWritten i ↔ (∃ x, i = .ldB x) ∨ ∃ x, i = .storeRegs x := by
  cases i <;> simp [partsWritten]

theorem delayTimer_mem_partsWritten {i : Instr} : Part.delayTimer ∈ partsWritten i ↔ ∃ x, i = .ldDtVx x := by
  cases i <;> simp [partsWritten]

theorem soundTimer_mem_partsWritten {i : Instr} : Part.soundTimer ∈ partsWritten i ↔ ∃ x, i = .ldStVx x := by
  cases i <;> simp [partsWritten]

theorem keys_not_mem_partsWritten (i : Instr) : Part.keys ∉ partsWritten i := by
  cases i <;> simp [partsWritten]

/-! ### The writes of an instruction -/

/-- Where an instruction at `s.pc` can leave `pc` (R94, R95, R100 to R107). -/
inductive State.MayGoTo (s : State) : Word → Prop
  | next : s.MayGoTo (s.pc + 2)
  | skip : s.MayGoTo (s.pc + 4)
  | jump (nnn : Addr) : s.MayGoTo (zextAddr nnn)
  | jumpV0 (nnn : Addr) (b : Byte) : s.MayGoTo (zextAddr nnn + zextByte b)
  | ret (hheld : 0 < s.sp.val) : s.MayGoTo (s.topOfStack hheld)

/-- `t` comes from `s` by writes to the registers of `regs`, to the parts of `parts` and to `pc`, one at a time. The
meaning of every instruction is such a list of writes (`exec_writes`), so that what each single write keeps, every
instruction keeps. -/
inductive Writes (regs : List Nibble) (parts : List Part) (s : State) : State → Prop
  | refl : Writes regs parts s s
  | setV {t : State} {x : Nibble} (hx : x ∈ regs) (b : Byte) : Writes regs parts s t → Writes regs parts s (t.setV x b)
  | setI {t : State} (hpart : Part.index ∈ parts) (w : Word) : Writes regs parts s t → Writes regs parts s (t.setI w)
  | setDT {t : State} (hpart : Part.delayTimer ∈ parts) (b : Byte) :
      Writes regs parts s t → Writes regs parts s (t.setDT b)
  | setST {t : State} (hpart : Part.soundTimer ∈ parts) (b : Byte) :
      Writes regs parts s t → Writes regs parts s (t.setST b)
  | writeByte {t : State} (hpart : Part.memory ∈ parts) (a : Addr) (b : Byte) :
      Writes regs parts s t → Writes regs parts s (t.writeByte a b)
  | setPc {t : State} {p : Word} (hp : s.MayGoTo p) : Writes regs parts s t → Writes regs parts s (t.setPc p)
  | push {t : State} (hpart : Part.stack ∈ parts) (hroom : t.sp.val < 16) :
      Writes regs parts s t → Writes regs parts s (t.push (s.pc + 2) hroom)
  | dropTop {t : State} (hpart : Part.stack ∈ parts) (hheld : 0 < t.sp.val) :
      Writes regs parts s t → Writes regs parts s (t.dropTop hheld)
  | setDisp {t : State} (hpart : Part.display ∈ parts) (hout : Part.output ∈ parts) (d : Display) :
      Writes regs parts s t → Writes regs parts s (t.setDisp d)
  | drawn {t : State} (hpart : Part.random ∈ parts) : Writes regs parts s t → Writes regs parts s t.drawn
  | raise {t : State} (hpart : Part.latch ∈ parts) (c : FaultCause) (w : Word) :
      Writes regs parts s t → Writes regs parts s (t.raise c w)

theorem Writes.nextInstr (h : Writes regs parts s t) (hpc : t.pc = s.pc) : Writes regs parts s t.nextInstr :=
  h.setPc (by rw [hpc]; exact .next)

theorem Writes.skipIf (h : Writes regs parts s t) (hpc : t.pc = s.pc) (c : Bool) :
    Writes regs parts s (t.skipIf c) := by
  refine h.setPc ?_
  rw [hpc]
  cases c
  · exact .next
  · exact .skip

@[simp] theorem storeBlock_pc (base : Word) (n : Nat) (s : State) : (storeBlock base n s).pc = s.pc := by
  rw [storeBlock_eq]

@[simp] theorem loadBlock_pc (base : Word) (n : Nat) (s : State) : (loadBlock base n s).pc = s.pc := by
  rw [loadBlock_eq]

theorem Writes.storeBlock (h : Writes regs parts s t) (hpart : Part.memory ∈ parts) (base : Word) (n : Nat) :
    Writes regs parts s (storeBlock base n t) := by
  induction n with
  | zero => exact h
  | succ n ih => exact ih.writeByte hpart _ _

theorem Writes.loadBlock (h : Writes regs parts s t) (base : Word) (n : Nat)
    (hregs : (List.range n).map (BitVec.ofNat 4) ⊆ regs) : Writes regs parts s (loadBlock base n t) := by
  induction n with
  | zero => exact h
  | succ n ih =>
    rw [List.range_succ, List.map_append, List.append_subset] at hregs
    exact (ih hregs.1).setV (hregs.2 List.mem_cons_self) _

/-- The meaning of every instruction writes only what `regsWritten` and `partsWritten` name. -/
theorem exec_writes (i : Instr) (s : State) :
    ∃ t, exec i s = .next t ∧ Writes (regsWritten i) (partsWritten i) s t := by
  have start : Writes (regsWritten i) (partsWritten i) s s := .refl
  cases i
  case seImm | sneImm | seReg | sneReg | skp | sknp => exact ⟨_, rfl, start.skipIf rfl _⟩
  case ldImm | addImm | ldReg | orReg | andReg | xorReg | ldVxDt =>
    exact ⟨_, rfl, (start.setV List.mem_cons_self _).nextInstr rfl⟩
  case addReg | subReg | shr | subnReg | shl =>
    exact ⟨_, rfl, ((start.setV (List.mem_cons_of_mem _ List.mem_cons_self) _).setV List.mem_cons_self _).nextInstr rfl⟩
  case ldI | ldF => exact ⟨_, rfl, (start.setI List.mem_cons_self _).nextInstr rfl⟩
  case addI => exact ⟨_, rfl, ((start.setV List.mem_cons_self _).setI List.mem_cons_self _).nextInstr rfl⟩
  case jp nnn => exact ⟨_, rfl, start.setPc (.jump nnn)⟩
  case jpV0 nnn => exact ⟨_, rfl, start.setPc (.jumpV0 nnn _)⟩
  case rnd => exact ⟨_, rfl, ((start.drawn List.mem_cons_self).setV List.mem_cons_self _).nextInstr rfl⟩
  case ldDtVx => exact ⟨_, rfl, (start.setDT List.mem_cons_self _).nextInstr rfl⟩
  case ldStVx => exact ⟨_, rfl, (start.setST List.mem_cons_self _).nextInstr rfl⟩
  case ldB x =>
    have hpart : Part.memory ∈ partsWritten (.ldB x) := List.mem_cons_self
    exact ⟨_, rfl, (((start.writeByte hpart _ _).writeByte hpart _ _).writeByte hpart _ _).nextInstr rfl⟩
  case storeRegs x =>
    have hblock := start.storeBlock List.mem_cons_self s.I (x.toNat + 1)
    exact ⟨_, rfl, (hblock.setI (List.mem_cons_of_mem _ List.mem_cons_self) _).nextInstr (storeBlock_pc _ _ _)⟩
  case loadRegs x =>
    have hblock := start.loadBlock s.I (x.toNat + 1) (List.Subset.refl _)
    exact ⟨_, rfl, (hblock.setI List.mem_cons_self _).nextInstr (loadBlock_pc _ _ _)⟩
  case cls =>
    exact ⟨_, rfl, (start.setDisp List.mem_cons_self (List.mem_cons_of_mem _ List.mem_cons_self) _).nextInstr rfl⟩
  case drw =>
    have hdisp := start.setDisp List.mem_cons_self (List.mem_cons_of_mem _ List.mem_cons_self)
    exact ⟨_, rfl, ((hdisp _).setV List.mem_cons_self _).nextInstr rfl⟩
  case ldVxK x =>
    rcases execLdVxK_cases x s with ⟨-, h⟩ | ⟨k, -, -, h⟩
    · exact ⟨s, h, start⟩
    · exact ⟨_, h, (start.setV List.mem_cons_self _).nextInstr rfl⟩
  case ret =>
    rcases execRet_cases s with ⟨hheld, h⟩ | ⟨-, h⟩
    · exact ⟨_, h, (start.dropTop List.mem_cons_self hheld).setPc (.ret hheld)⟩
    · exact ⟨_, h, start.raise (List.mem_cons_of_mem _ List.mem_cons_self) _ _⟩
  case call nnn =>
    rcases execCall_cases nnn s with ⟨hroom, h⟩ | ⟨-, h⟩
    · exact ⟨_, h, (start.push List.mem_cons_self hroom).setPc (.jump nnn)⟩
    · exact ⟨_, h, start.raise (List.mem_cons_of_mem _ List.mem_cons_self) _ _⟩

theorem writes_of_exec {i : Instr} (h : exec i s = .next t) : Writes (regsWritten i) (partsWritten i) s t := by
  obtain ⟨u, hu, hwrites⟩ := exec_writes i s
  cases h.symm.trans hu
  exact hwrites

/-! ### What every single write keeps -/

theorem Writes.frame (h : Writes regs parts s t) : Frame regs parts s t := by
  induction h with
  | refl => exact Frame.refl regs parts s
  | setV hx b _ ih => exact ih.setV hx b
  | setI hpart w _ ih => exact ih.setI hpart w
  | setDT hpart b _ ih => exact ih.setDT hpart b
  | setST hpart b _ ih => exact ih.setST hpart b
  | writeByte hpart a b _ ih => exact ih.writeByte hpart a b
  | setPc _ _ ih => exact ih.setPc _
  | push hpart hroom _ ih => exact ih.push hpart _ hroom
  | dropTop hpart hheld _ ih => exact ih.dropTop hpart hheld
  | setDisp hpart hout d _ ih => exact ih.setDisp hpart hout d
  | drawn hpart _ ih => exact ih.drawn hpart
  | raise hpart c w _ ih => exact ih.raise hpart c w

theorem frame_of_exec {i : Instr} (h : exec i s = .next t) : Frame (regsWritten i) (partsWritten i) s t :=
  (writes_of_exec h).frame

/-- No write but that of a byte touches memory, and that one keeps the canonical form. -/
theorem Writes.memWf (h : Writes regs parts s t) (hs : s.memWf) : t.memWf := by
  induction h with
  | refl => exact hs
  | writeByte _ a b _ ih => exact State.memWf_writeByte _ ih a b
  | setV _ _ _ ih | setI _ _ _ ih | setDT _ _ _ ih | setST _ _ _ ih | setPc _ _ ih | push _ _ _ ih | dropTop _ _ _ ih
  | setDisp _ _ _ _ ih | drawn _ _ ih | raise _ _ _ _ ih => exact ih

end Sys2Proof.Machine
end

section
/-! Further facts of the same layer: what a Step does in each of its four cases, and how an invariant goes through every
event. -/

namespace Sys2Proof.Machine

variable {s t : State}

/-! ### The four cases of a Step (R91 to R94) -/

theorem step_of_latched {r : FaultRecord} (h : s.fault = some r) : step s = .next s.beginStep := by
  simp only [step, h]

theorem step_of_fetchOutOfBounds (hf : s.fault = none) (hp : s.fetchOutOfBounds = true) :
    step s = .next (s.beginStep.raise .fetch 0x0000) := by
  simp only [step, hf, hp, if_true]

theorem step_of_fetchesUndefined {w : Word} (h : FetchesUndefined s w) :
    step s = .next (s.beginStep.undefinedWord w) := by
  obtain ⟨hf, hp, hd, rfl⟩ := (fetchesUndefined_iff s w).1 h
  simp [step, hf, hp, hd]

theorem step_of_executes {i : Instr} (h : Executes s i) : step s = exec i s.beginStep := by
  obtain ⟨hf, hp, hd⟩ := (executes_iff s i).1 h
  simp [step, hf, hp, hd]

/-- A Step that answers `t` is one of the four. -/
theorem step_next_cases (h : step s = .next t) :
    ((∃ r, s.fault = some r) ∧ t = s.beginStep) ∨
    (s.fault = none ∧ s.fetchOutOfBounds = true ∧ t = s.beginStep.raise .fetch 0x0000) ∨
    (∃ w, FetchesUndefined s w ∧ t = s.beginStep.undefinedWord w) ∨
    (∃ i, Executes s i ∧ exec i s.beginStep = .next t) := by
  rcases step_cases s with ⟨hr, he⟩ | ⟨hf, hp, he⟩ | ⟨w, hw, he⟩ | ⟨i, hi, he⟩
  · cases he.symm.trans h; exact .inl ⟨hr, rfl⟩
  · cases he.symm.trans h; exact .inr (.inl ⟨hf, hp, rfl⟩)
  · cases he.symm.trans h; exact .inr (.inr (.inl ⟨w, hw, rfl⟩))
  · exact .inr (.inr (.inr ⟨i, hi, he.symm.trans h⟩))

theorem undefinedWord_frame (h : Frame [] [.latch, .output] s t) (w : Word) :
    Frame [] [.latch, .output] s (t.undefinedWord w) := by
  rcases undefinedWord_cases t w with ⟨-, he⟩ | ⟨-, he⟩ <;> rw [he]
  · exact h.raise List.mem_cons_self _ _
  · exact { h with sameOutput := absurd (List.mem_cons_of_mem _ List.mem_cons_self) }

/-- A Step changes what the instruction it executes writes; where it executes none, at most the latch and the outputs. -/
theorem step_frame (h : step s = .next t) :
    Frame [] [.latch, .output] s t ∨ ∃ i, Executes s i ∧ Frame (regsWritten i) (.output :: partsWritten i) s t := by
  have houtput : Part.output ∈ [Part.latch, .output] := List.mem_cons_of_mem _ List.mem_cons_self
  have start : Frame [] [.latch, .output] s s.beginStep := (Frame.refl _ _ s).beginStep houtput
  rcases step_next_cases h with ⟨-, rfl⟩ | ⟨-, -, rfl⟩ | ⟨w, -, rfl⟩ | ⟨i, hi, he⟩
  · exact .inl start
  · exact .inl (start.raise List.mem_cons_self _ _)
  · exact .inl (undefinedWord_frame start w)
  · exact .inr ⟨i, hi, (frame_of_exec he).of_beginStep⟩

/-! ### Invariants -/

/-- An invariant that every Step keeps, and every single write of the other events, is kept by every event. -/
theorem apply_keeps {P : State → Prop} {e : Event} (h : s.apply e = .next t) (hs : P s)
    (hrand : ∀ u r, P u → P (State.withRand u r)) (hstep : ∀ u v, P u → step u = .next v → P v)
    (hwrite : ∀ u a b, P u → P (State.writeByte u a b)) (hreset : ∀ u, P u → P (State.resetEvent u))
    (htick : ∀ u, P u → P (State.tickEvent u)) (hkey : ∀ u k p, P u → P (State.setKeyEvent k p u)) : P t := by
  cases e with
  | reset => cases h; exact hreset s hs
  | load bytes =>
    obtain ⟨-, rfl⟩ := loadEvent_next h
    generalize 0x200 = a
    clear h
    induction bytes generalizing a s with
    | nil => exact hs
    | cons b rest ih => exact ih (hwrite _ _ _ hs) _
  | step rand =>
    obtain ⟨u, hu, rfl⟩ := stepEvent_next h
    exact hrand _ _ (hstep _ _ (hrand _ _ hs) hu)
  | tick => cases h; exact htick s hs
  | setKey k p => cases h; exact hkey s k p hs

/-! ### The range of `pc` (R28) -/

@[simp] theorem zextByte_toNat (b : Byte) : (zextByte b).toNat = b.toNat := BitVec.toNat_setWidth_of_le (by decide)

theorem State.MayGoTo.toNat_le {p : Word} (hp : s.MayGoTo p) (hpc : s.pc.toNat ≤ 0x0FFE) (hs : s.pcInRange) :
    p.toNat ≤ 0x10FE := by
  cases hp with
  | next | skip => bv_omega
  | jump nnn => rw [zextAddr_toNat]; omega
  | jumpV0 nnn b =>
    rw [BitVec.toNat_add, zextAddr_toNat, zextByte_toNat]
    omega
  | ret hheld => exact (hs.held_le _ (by omega)).trans (by decide)

theorem pcInRange_push (hs : s.pcInRange) {a : Word} (ha : a.toNat ≤ 0x1000) (hroom : s.sp.val < 16) :
    (s.push a hroom).pcInRange where
  pc_le := hs.pc_le
  held_le k hk := by
    simp only [State.push_stack, Vector.getElem_set]
    simp only [State.push_sp] at hk
    split
    · exact ha
    · exact hs.held_le k (by omega)

theorem pcInRange_dropTop (hs : s.pcInRange) (hheld : 0 < s.sp.val) : (s.dropTop hheld).pcInRange where
  pc_le := hs.pc_le
  held_le k hk := hs.held_le k (by simp only [State.dropTop_sp] at hk; omega)

theorem Writes.pcInRange {regs : List Nibble} {parts : List Part} (h : Writes regs parts s t)
    (hpc : s.pc.toNat ≤ 0x0FFE) (hs : s.pcInRange) : t.pcInRange := by
  induction h with
  | refl => exact hs
  | setPc hp _ ih => exact ⟨hp.toNat_le hpc hs, ih.held_le⟩
  | push _ hroom _ ih => exact pcInRange_push ih (by bv_omega) hroom
  | dropTop _ hheld _ ih => exact pcInRange_dropTop ih hheld
  | setV _ _ _ ih | setI _ _ _ ih | setDT _ _ _ ih | setST _ _ _ ih | writeByte _ _ _ _ ih | setDisp _ _ _ _ ih
  | drawn _ _ ih | raise _ _ _ _ ih => exact ⟨ih.pc_le, ih.held_le⟩

end Sys2Proof.Machine
end

section
/-! Invariants (10_state.md, 60_exceptions.md): for each, that a Step keeps it, and the statement settled. -/

namespace Sys2Proof.Machine

variable {s t : State}

/-! ### Canonical memory -/

theorem step_keeps_memWf (hs : s.memWf) (h : step s = .next t) : t.memWf := by
  rcases step_next_cases h with ⟨-, rfl⟩ | ⟨-, -, rfl⟩ | ⟨w, -, rfl⟩ | ⟨i, -, he⟩
  · exact hs
  · exact hs
  · rcases undefinedWord_cases s.beginStep w with ⟨-, hw⟩ | ⟨-, hw⟩ <;> rw [hw] <;> exact hs
  · exact (writes_of_exec he).memWf hs

/-- Settles O48: memory changes only by single writes of a byte, each of which keeps the canonical form, and by `Reset`,
after which no cell is listed. -/
theorem canonicalMemoryKept : Obligations.CanonicalMemoryKept := fun _ _ hs =>
  ⟨step_keeps_memWf hs, fun _ h => apply_keeps (P := State.memWf) h hs (fun _ _ hu => hu)
    (fun _ _ hu => step_keeps_memWf hu) (fun _ a b hu => State.memWf_writeByte _ hu a b) (fun _ _ => Memory.wf_nil)
    (fun _ hu => hu) (fun _ _ _ hu => hu)⟩

/-- An address below every listed one reads as its reset contents. -/
theorem Memory.read_of_above {bg : Nat → Byte} {m : Memory} {q : Nat} (h : m.all (fun c => decide (q < c.1)) = true) :
    Memory.read bg m q = bg q := by
  induction m with
  | nil => rfl
  | cons c rest ih =>
    simp only [List.all_cons, Bool.and_eq_true, decide_eq_true_eq] at h
    simp only [Memory.read, if_neg (Nat.ne_of_gt h.1), ih h.2]

/-- A canonical list with a first cell at `k` reads differently from a canonical list that lists only addresses above. -/
theorem Memory.read_ne_of_above {bg : Nat → Byte} {k : Nat} {v : Byte} {rest m : Memory}
    (hwf : Memory.wf bg ((k, v) :: rest) = true) (h : m.all (fun c => decide (k < c.1)) = true) :
    Memory.read bg ((k, v) :: rest) k ≠ Memory.read bg m k := by
  rw [Memory.read_of_above h, Memory.read, if_pos rfl]
  exact ((Memory.wf_cons k v rest).1 hwf).2.1

theorem Memory.eq_of_read_eq {bg : Nat → Byte} {m m' : Memory} (hm : Memory.wf bg m = true)
    (hm' : Memory.wf bg m' = true) (h : ∀ q, q < 4096 → Memory.read bg m q = Memory.read bg m' q) : m = m' := by
  induction m generalizing m' with
  | nil =>
    cases m' with
    | nil => rfl
    | cons c' rest' =>
      have hk' := ((Memory.wf_cons _ _ _).1 hm').1
      exact absurd (h _ hk').symm (Memory.read_ne_of_above hm' rfl)
  | cons c rest ih =>
    obtain ⟨k, v⟩ := c
    obtain ⟨hk, -, habove, hrest⟩ := (Memory.wf_cons k v rest).1 hm
    cases m' with
    | nil => exact absurd (h k hk) (Memory.read_ne_of_above hm rfl)
    | cons c' rest' =>
      obtain ⟨k', v'⟩ := c'
      obtain ⟨hk', -, habove', hrest'⟩ := (Memory.wf_cons k' v' rest').1 hm'
      have all_above {a b : Nat} {w : Byte} {l : Memory} (hab : a < b) (hl : l.all (fun c => decide (b < c.1)) = true) :
          List.all ((b, w) :: l) (fun c => decide (a < c.1)) = true := by
        simp [hab, Memory.all_above_trans l a b hab.le hl]
      rcases Nat.lt_trichotomy k k' with hlt | rfl | hgt
      · exact absurd (h k hk) (Memory.read_ne_of_above hm (all_above hlt habove'))
      · have hv : v = v' := by simpa [Memory.read] using h k hk
        have htail : ∀ q, q < 4096 → Memory.read bg rest q = Memory.read bg rest' q := by
          intro q hq
          by_cases hqk : k = q
          · subst hqk
            rw [Memory.read_of_above habove, Memory.read_of_above habove']
          · simpa [Memory.read, hqk] using h q hq
        rw [hv, ih hrest hrest' htail]
      · exact absurd (h k' hk').symm (Memory.read_ne_of_above hm' (all_above hgt habove))

/-- Settles O49: by induction on the two lists, the first addresses of which must agree, or one of them would read as its
reset contents in one list only. -/
theorem canonicalMemoryUnique : Obligations.CanonicalMemoryUnique := by
  intro s t hs ht hcfg hsame
  unfold State.memWf at ht
  rw [← hcfg] at ht
  refine Memory.eq_of_read_eq hs ht fun q hq => ?_
  have h := hsame (BitVec.ofNat 12 q)
  unfold State.readByte at h
  rw [BitVec.toNat_ofNat, Nat.mod_eq_of_lt hq, ← hcfg] at h
  exact h.symm

/-! ### The range of `pc` -/

theorem step_keeps_pcInRange (hs : s.pcInRange) (h : step s = .next t) : t.pcInRange := by
  rcases step_next_cases h with ⟨-, rfl⟩ | ⟨-, -, rfl⟩ | ⟨w, hw, rfl⟩ | ⟨i, hi, he⟩
  · exact ⟨hs.pc_le, hs.held_le⟩
  · exact ⟨hs.pc_le, hs.held_le⟩
  · obtain ⟨-, hpc, -⟩ := hw
    rcases undefinedWord_cases s.beginStep w with ⟨-, hw⟩ | ⟨-, hw⟩ <;> rw [hw]
    · exact ⟨hs.pc_le, hs.held_le⟩
    · have hle : (s.pc + 2).toNat ≤ 0x10FE := by bv_omega
      exact ⟨hle, hs.held_le⟩
  · obtain ⟨-, hpc, -⟩ := hi
    exact (writes_of_exec he).pcInRange hpc ⟨hs.pc_le, hs.held_le⟩

theorem pcInRange_resetEvent (s : State) : s.resetEvent.pcInRange where
  pc_le := show (0x0200 : Word).toNat ≤ 0x10FE by decide
  held_le k hk := absurd hk (Nat.not_lt_zero k)

/-- Settles O50: a Step that executes begins at most at 0x0FFE, so that every target of an instruction is in range, and a
return address is at most 0x1000 when it is pushed. -/
theorem pcRangeKept : Obligations.PcRangeKept := fun _ _ hs =>
  ⟨step_keeps_pcInRange hs, fun _ h => apply_keeps (P := State.pcInRange) h hs
    (fun _ _ hu => ⟨hu.pc_le, hu.held_le⟩) (fun _ _ hu => step_keeps_pcInRange hu)
    (fun _ _ _ hu => ⟨hu.pc_le, hu.held_le⟩) (fun u _ => pcInRange_resetEvent u)
    (fun _ hu => ⟨hu.pc_le, hu.held_le⟩) (fun _ _ _ hu => ⟨hu.pc_le, hu.held_le⟩)⟩

/-! ### Precise faults -/

theorem faultPrecise_of_none (h : s.fault = none) : s.faultPrecise := by
  intro r hr
  rw [h] at hr
  cases hr

/-- A fault is precise when it is raised, if what its cause says holds of the state. -/
theorem faultPrecise_raise {c : FaultCause} {w : Word} (h : FaultRecord.explains ⟨c, s.pc, w⟩ s) :
    (s.raise c w).faultPrecise := by
  intro r hr
  cases hr
  exact ⟨rfl, h⟩

theorem exec_faultPrecise {i : Instr} (hs : s.fault = none) (h : exec i s = .next t) : t.faultPrecise := by
  by_cases hpart : Part.latch ∈ partsWritten i
  · rcases latch_mem_partsWritten.1 hpart with rfl | ⟨nnn, rfl⟩
    · rcases execRet_cases s with ⟨hheld, he⟩ | ⟨hsp, he⟩ <;> cases he.symm.trans h
      · exact faultPrecise_of_none hs
      · exact faultPrecise_raise ⟨hsp, rfl⟩
    · rcases execCall_cases nnn s with ⟨hroom, he⟩ | ⟨hsp, he⟩ <;> cases he.symm.trans h
      · exact faultPrecise_of_none hs
      · exact faultPrecise_raise ⟨hsp, nnn, rfl⟩
  · exact faultPrecise_of_none (((frame_of_exec h).sameLatch hpart).trans hs)

theorem step_keeps_faultPrecise (hs : s.faultPrecise) (h : step s = .next t) : t.faultPrecise := by
  rcases step_next_cases h with ⟨-, rfl⟩ | ⟨-, hpc, rfl⟩ | ⟨w, hw, rfl⟩ | ⟨i, hi, he⟩
  · exact hs
  · refine faultPrecise_raise ⟨?_, rfl⟩
    simp only [State.fetchOutOfBounds, decide_eq_true_eq] at hpc
    show s.pc.toNat ≥ 0x0FFF
    omega
  · obtain ⟨hf, -, hd, rfl⟩ := (fetchesUndefined_iff s w).1 hw
    rcases undefinedWord_cases s.beginStep s.fetchWord with ⟨hstrict, hu⟩ | ⟨-, hu⟩ <;> rw [hu]
    · exact faultPrecise_raise ⟨hstrict, hd⟩
    · exact faultPrecise_of_none hf
  · obtain ⟨hf, -, -⟩ := hi
    exact exec_faultPrecise (s := s.beginStep) hf he

/-- Settles O51: a Step raises a fault only where its cause holds and `pc` still stands, a Step of a latched machine moves
nothing, and no other event writes `pc`, `sp` or the configuration but `Reset`, which clears the latch. -/
theorem faultsStayPrecise : Obligations.FaultsStayPrecise := fun _ _ hs =>
  ⟨step_keeps_faultPrecise hs, fun _ h => apply_keeps (P := State.faultPrecise) h hs (fun _ _ hu => hu)
    (fun _ _ hu => step_keeps_faultPrecise hu) (fun _ _ _ hu => hu) (fun _ _ => faultPrecise_of_none rfl)
    (fun _ hu => hu) (fun _ _ _ hu => hu)⟩

/-! ### The configuration -/

theorem step_cfg (h : step s = .next t) : t.cfg = s.cfg := by
  rcases step_frame h with hframe | ⟨_, -, hframe⟩ <;> exact hframe.sameConfig

/-- Settles O53: every frame of a Step keeps the configuration, and no event writes it. -/
theorem configurationIsFixed : Obligations.ConfigurationIsFixed := fun s _ =>
  ⟨step_cfg, fun _ h => apply_keeps (P := fun u => u.cfg = s.cfg) h rfl (fun _ _ hu => hu)
    (fun _ _ hu h => (step_cfg h).trans hu) (fun _ _ _ hu => hu) (fun _ hu => hu) (fun _ hu => hu) (fun _ _ _ hu => hu)⟩

/-! ### At reset -/

/-- Settles O54: at reset no cell is listed, no return address is held, and the latch is empty. -/
theorem invariantsHoldAtReset : Obligations.InvariantsHoldAtReset :=
  ⟨Memory.wf_nil, pcInRange_resetEvent State.reset, faultPrecise_of_none rfl, rfl⟩

/-- Settles O47: `Reset` keeps only the configuration and the draw counter, which are assumed to be those of
`State.reset`. -/
theorem resetGivesResetState : Obligations.ResetGivesResetState := by
  intro s hcfg hdraws
  rw [State.apply_reset, State.resetEvent, hcfg, hdraws]
  rfl

end Sys2Proof.Machine
end

section
/-! The Step (40_step_cycle.md) and its random input (42_register_alu.md section 4): the facts each statement rests on, and
the statement settled. -/

namespace Sys2Proof.Machine

variable {s t : State}

/-! ### The four cases of a Step -/

/-- Settles O10: each of the four cases answers a next state, and so does the meaning of every instruction. -/
theorem everyStepCompletes : Obligations.EveryStepCompletes := by
  intro s
  rcases step_cases s with ⟨-, h⟩ | ⟨-, -, h⟩ | ⟨_, -, h⟩ | ⟨i, -, h⟩
  · exact ⟨_, h⟩
  · exact ⟨_, h⟩
  · exact ⟨_, h⟩
  · obtain ⟨t, ht, -⟩ := exec_writes i s.beginStep
    exact ⟨t, h.trans ht⟩

/-- Settles O6: the fetch of a Step is the decoder on the two bytes at `pc`. -/
theorem stepRunsDecodedInstruction : Obligations.StepRunsDecodedInstruction := fun _ _ => step_of_executes

/-- Settles O7: the halt check clears the outputs and writes nothing else. -/
theorem faultedStepChangesNothing : Obligations.FaultedStepChangesNothing := by
  intro s r hr
  refine ⟨s.beginStep, step_of_latched hr, rfl, (Frame.refl _ _ s).beginStep List.mem_cons_self, rfl, ?_⟩
  simp only [State.stepOutcome, State.beginStep_out, State.beginStep_fault, hr, EventOutput.zero]

/-- Settles O8: a fetch beyond memory raises its fault from the state with the outputs cleared. -/
theorem fetchBeyondMemoryFaults : Obligations.FetchBeyondMemoryFaults := by
  intro s hf hpc
  have hout : Part.output ∈ [Part.latch, .output] := List.mem_cons_of_mem _ List.mem_cons_self
  exact ⟨s.beginStep.raise .fetch 0x0000, step_of_fetchOutOfBounds hf (decide_eq_true hpc), rfl, rfl,
    ((Frame.refl _ _ s).beginStep hout).raise List.mem_cons_self _ _, rfl⟩

/-- Settles O9: UNIMPL_STRICT selects the fault or the skip, each from the state with the outputs cleared. -/
theorem undefinedWordSkippedOrFaults : Obligations.UndefinedWordSkippedOrFaults := by
  intro s w hw
  have hstep := step_of_fetchesUndefined hw
  rcases undefinedWord_cases s.beginStep w with ⟨hstrict, hu⟩ | ⟨hstrict, hu⟩ <;> rw [hu] at hstep
  · have hout : Part.output ∈ [Part.latch, .output] := List.mem_cons_of_mem _ List.mem_cons_self
    refine ⟨fun h => absurd (hstrict.symm.trans h) (by decide), fun _ => ⟨_, hstep, rfl, ?_, rfl, rfl⟩⟩
    exact ((Frame.refl _ _ s).beginStep hout).raise List.mem_cons_self _ _
  · refine ⟨fun _ => ⟨_, hstep, rfl, ?_, rfl⟩, fun h => absurd (h.symm.trans hstrict) (by decide)⟩
    exact { Frame.refl [] [.output] s with sameOutput := absurd List.mem_cons_self }

/-! ### The outcome bits (R96) -/

/-- The outputs after the meaning of an instruction: a display writer reports the change, and no other writes them. -/
theorem exec_out {i : Instr} (h : exec i s = .next t) :
    t.out = if Part.output ∈ partsWritten i then { s.out with displayChanged := true } else s.out := by
  split
  case isTrue hpart =>
    rcases output_mem_partsWritten.1 hpart with rfl | ⟨x, y, n, rfl⟩ <;> cases h <;> rfl
  case isFalse hpart => exact (frame_of_exec h).sameOutput hpart

theorem executes_displayWriter_iff {i : Instr} (hi : Executes s i) :
    (Executes s .cls ∨ ∃ x y n, Executes s (.drw x y n)) ↔ Part.output ∈ partsWritten i := by
  rw [output_mem_partsWritten]
  constructor
  · rintro (h | ⟨x, y, n, h⟩)
    · exact .inl (executes_unique hi h)
    · exact .inr ⟨x, y, n, executes_unique hi h⟩
  · rintro (rfl | ⟨x, y, n, rfl⟩)
    · exact .inl hi
    · exact .inr ⟨x, y, n, hi⟩

/-- A Step does not both execute an instruction and meet an undefined word. -/
theorem not_fetchesUndefined_of_executes {i : Instr} (hi : Executes s i) (w : Word) : ¬ FetchesUndefined s w := by
  rintro ⟨-, -, hd⟩
  exact Decoded.noConfusion (hi.2.2.symm.trans hd)

theorem fetchesUndefined_unique {w w' : Word} (h : FetchesUndefined s w) (h' : FetchesUndefined s w') : w = w' := by
  rw [fetchesUndefined_iff] at h h'
  rw [h.2.2.2, h'.2.2.2]

/-- Settles O11: by the four cases of a Step; only a display writer and a skipped undefined word write an output. -/
theorem stepOutcomeBits : Obligations.StepOutcomeBits := by
  intro s t h
  rcases step_next_cases h with ⟨⟨r, hr⟩, rfl⟩ | ⟨-, hp, rfl⟩ | ⟨w, hw, rfl⟩ | ⟨i, hi, he⟩
  · have hexec (i : Instr) : ¬ Executes s i := fun hi => by simp [hi.1] at hr
    have hundef (w : Word) : ¬ FetchesUndefined s w := fun hw => by simp [hw.1] at hr
    simp [hexec, hundef, EventOutput.zero]
  · have hexec (i : Instr) : ¬ Executes s i := fun hi => by simp [((executes_iff s i).1 hi).2.1] at hp
    have hundef (w : Word) : ¬ FetchesUndefined s w := fun hw => by simp [((fetchesUndefined_iff s w).1 hw).2.1] at hp
    simp [hexec, hundef, EventOutput.zero]
  · have hexec (i : Instr) : ¬ Executes s i := fun hi => not_fetchesUndefined_of_executes hi w hw
    rcases undefinedWord_cases s.beginStep w with ⟨hstrict, hu⟩ | ⟨hstrict, hu⟩ <;>
      rw [State.beginStep_cfg] at hstrict <;> rw [hu]
    · simp [hexec, hstrict, EventOutput.zero]
    · have hex : ∃ w, FetchesUndefined s w := ⟨w, hw⟩
      have hunique : ∀ w', FetchesUndefined s w' → w = w' := fun _ => fetchesUndefined_unique hw
      simpa [hexec, hstrict, hex, EventOutput.zero] using hunique
  · have hundef := not_fetchesUndefined_of_executes hi
    rw [executes_displayWriter_iff hi, exec_out he]
    split <;> simp [*, EventOutput.zero]

/-! ### A word placed where the machine fetches -/

theorem withFetchWord_fetchOutOfBounds (s : State) (n w : Nat) : (s.withFetchWord n w).fetchOutOfBounds = false := by
  show decide ((if s.fetchOutOfBounds then (0x0200 : Word) else s.pc).toNat + 1 > 4095) = false
  cases h : s.fetchOutOfBounds
  · exact h
  · rfl

theorem setWidth_ne_setWidth_succ (p : Word) : p.setWidth 12 ≠ (p + 1).setWidth 12 := by
  bv_omega

/-- The two bytes placed are at different addresses, and make the word again. -/
theorem withFetchWord_fetchWord (s : State) (n w : Nat) : (s.withFetchWord n w).fetchWord = BitVec.ofNat 16 w := by
  unfold State.withFetchWord State.fetchWord
  simp only [State.readByte_writeByte, State.writeByte_pc, setWidth_ne_setWidth_succ, if_true, if_false,
    bigEndian_bytes]

theorem executes_withFetchWord (s : State) (i : Instr) : Executes (s.withFetchWord 16 (encode i).toNat) i := by
  refine (executes_iff _ i).2 ⟨rfl, withFetchWord_fetchOutOfBounds s 16 _, ?_⟩
  rw [withFetchWord_fetchWord, BitVec.ofNat_toNat, BitVec.setWidth_eq, decodeWord_encode]

/-- Settles O12: the placed bytes are fetched, and decode to the instruction they encode. -/
theorem placedWordRunsNext : Obligations.PlacedWordRunsNext := fun s i =>
  ⟨executes_withFetchWord s i, step_of_executes (executes_withFetchWord s i)⟩

/-! ### The random input -/

theorem drawSprite_withRand (s : State) (r : Option Byte) (vx vy n : Nat) :
    drawSprite (s.withRand r) vx vy n = drawSprite s vx vy n := by
  induction n with
  | zero => rfl
  | succ n ih => simp only [drawSprite, ih, State.withRand_readByte, State.withRand_I]

theorem storeBlock_withRand (base : Word) (n : Nat) (s : State) (r : Option Byte) :
    storeBlock base n (s.withRand r) = (storeBlock base n s).withRand r := by
  induction n with
  | zero => rfl
  | succ n ih => simp only [storeBlock, ih]; rfl

theorem loadBlock_withRand (base : Word) (n : Nat) (s : State) (r : Option Byte) :
    loadBlock base n (s.withRand r) = (loadBlock base n s).withRand r := by
  induction n with
  | zero => rfl
  | succ n ih => simp only [loadBlock, ih]; rfl

/-- No instruction but `CXNN` reads or writes the random input. -/
theorem exec_withRand {i : Instr} (hi : ∀ x nn, i ≠ .rnd x nn) (h : exec i s = .next t) (r : Option Byte) :
    exec i (s.withRand r) = .next (t.withRand r) := by
  cases i
  case rnd x nn => exact absurd rfl (hi x nn)
  case ret =>
    rcases execRet_cases s with ⟨hheld, he⟩ | ⟨hsp, he⟩ <;> cases he.symm.trans h
    · exact dif_pos hheld
    · exact dif_neg (hsp ▸ Nat.lt_irrefl 0)
  case call nnn =>
    rcases execCall_cases nnn s with ⟨hroom, he⟩ | ⟨hsp, he⟩ <;> cases he.symm.trans h
    · exact dif_pos hroom
    · exact dif_neg (hsp ▸ Nat.lt_irrefl 16)
  case ldVxK x =>
    have hkey : (s.withRand r).lowestKey = s.lowestKey := rfl
    simp only [exec, execLdVxK, hkey] at h ⊢
    split at h <;> cases h <;> rfl
  case drw => cases h; simp only [exec, execDrw, drawSprite_withRand]; rfl
  case storeRegs => cases h; simp only [exec, execStoreRegs, storeBlock_withRand]; rfl
  case loadRegs => cases h; simp only [exec, execLoadRegs, loadBlock_withRand]; rfl
  all_goals cases h; rfl

theorem undefinedWord_withRand (s : State) (w : Word) (r : Option Byte) :
    (s.withRand r).undefinedWord w = (s.undefinedWord w).withRand r := by
  unfold State.undefinedWord
  rw [apply_ite (fun u : State => u.withRand r)]
  rfl

/-- A Step that does not execute `CXNN` leaves the random input as it stands, and does the same whatever it is. -/
theorem step_withRand (hs : ∀ x nn, ¬ Executes s (.rnd x nn)) (h : step s = .next t) (r : Option Byte) :
    step (s.withRand r) = .next (t.withRand r) := by
  rcases step_next_cases h with ⟨⟨_, hr⟩, rfl⟩ | ⟨hf, hp, rfl⟩ | ⟨w, hw, rfl⟩ | ⟨i, hi, he⟩
  · exact step_of_latched (s := s.withRand r) hr
  · exact step_of_fetchOutOfBounds (s := s.withRand r) hf hp
  · rw [← undefinedWord_withRand]
    exact step_of_fetchesUndefined (s := s.withRand r) hw
  · have hne : ∀ x nn, i ≠ .rnd x nn := fun x nn hirnd => hs x nn (hirnd ▸ hi)
    exact (step_of_executes (s := s.withRand r) hi).trans (exec_withRand hne he r)

theorem apply_step_of_step {r : Byte} (h : step (s.withRand (some r)) = .next t) :
    s.apply (.step r) = .next (t.withRand none) := by
  simp only [State.apply, State.stepEvent, h]

/-- Settles O28: with either byte the Step does what it does without, and the byte is gone after it. -/
theorem onlyRandomReadsRand : Obligations.OnlyRandomReadsRand := by
  intro s r₁ r₂ hs
  obtain ⟨t, ht⟩ := everyStepCompletes s
  have hstep (r : Byte) : s.apply (.step r) = .next (t.withRand none) :=
    (apply_step_of_step (step_withRand hs ht (some r))).trans rfl
  exact (hstep r₁).trans (hstep r₂).symm

end Sys2Proof.Machine
end

section
/-! Control flow (41_control_flow.md): the stack, and the statements settled. -/

namespace Sys2Proof.Machine

theorem exec_ret_of_held (s : State) (h : 0 < s.sp.val) :
    exec .ret s = .next ((s.dropTop h).setPc (s.topOfStack h)) := dif_pos h

theorem exec_ret_of_empty (s : State) (h : s.sp.val = 0) :
    exec .ret s = .next (s.raise .stackUnderflow (encode .ret)) := dif_neg (h ▸ Nat.lt_irrefl 0)

theorem exec_call_of_room (nnn : Addr) (s : State) (h : s.sp.val < 16) :
    exec (.call nnn) s = .next ((s.push (s.pc + 2) h).setPc (zextAddr nnn)) := dif_pos h

theorem exec_call_of_full (nnn : Addr) (s : State) (h : s.sp.val = 16) :
    exec (.call nnn) s = .next (s.raise .stackOverflow (encode (.call nnn))) := dif_neg (h ▸ Nat.lt_irrefl 16)

/-- Settles O13: the pop moves `sp` and the jump moves `pc`; no entry is written (R100). -/
theorem returnPopsReturnAddress : Obligations.ReturnPopsReturnAddress := fun s h =>
  ⟨_, exec_ret_of_held s h, rfl, rfl, rfl, ((Frame.refl _ _ s).dropTop List.mem_cons_self h).setPc _⟩

/-- Settles O14: on an empty stack the only write is to the latch (R100). -/
theorem returnOnEmptyStackFaults : Obligations.ReturnOnEmptyStackFaults := fun s h =>
  ⟨_, exec_ret_of_empty s h, rfl, rfl, (Frame.refl _ _ s).raise List.mem_cons_self _ _⟩

/-- Settles O16: the push writes the one entry at `sp`, and the jump is to the zero-extended NNN (R102). -/
theorem callPushesAndJumps : Obligations.CallPushesAndJumps := fun s nnn h =>
  ⟨_, exec_call_of_room nnn s h, zextAddr_toNat nnn, rfl, Vector.getElem_set_self h,
    fun _ hk hne => Vector.getElem_set_ne h hk hne.symm, ((Frame.refl _ _ s).push List.mem_cons_self _ h).setPc _⟩

/-- Settles O17: on a full stack the only write is to the latch, and the word recorded is that of the call (R102). -/
theorem callOnFullStackFaults : Obligations.CallOnFullStackFaults := by
  intro s nnn h
  have hword : encode (.call nnn) = BitVec.ofNat 16 (0x2000 + nnn.toNat) := by
    apply BitVec.eq_of_toNat_eq
    simp only [encode, toNat_nnn, BitVec.toNat_ofNat]
    omega
  refine ⟨_, exec_call_of_full nnn s h, ?_, rfl, (Frame.refl _ _ s).raise List.mem_cons_self _ _⟩
  rw [State.raise_fault, hword]

/-- Settles O19: NNN + V0 is at most 0x10FE, so that the sum of words is the sum on naturals (R107). -/
theorem jumpWithOffset : Obligations.JumpWithOffset := by
  intro s nnn
  refine ⟨s.setPc (zextAddr nnn + zextByte (s.v 0)), rfl, ?_, (Frame.refl _ _ s).setPc _⟩
  rw [State.setPc_pc, BitVec.toNat_add, zextAddr_toNat, zextByte_toNat]
  omega

/-- Settles O20: the return uncovers the entry that the call pushed, and moves `sp` back by one. -/
theorem callThenReturnRestores : Obligations.CallThenReturnRestores := by
  intro s t u nnn h hcall hstep hret hsp hentry
  have ht := (step_of_executes hcall).trans (exec_call_of_room nnn s.beginStep h)
  cases ht.symm.trans hstep
  have hspval : u.sp.val = s.sp.val + 1 := congrArg Fin.val hsp
  have hheld : 0 < u.sp.val := by omega
  refine ⟨_, (step_of_executes hret).trans (exec_ret_of_held u.beginStep hheld), ?_, ?_⟩
  · have htop : u.topOfStack hheld = u.stack[s.sp.val]'h := by simp only [State.topOfStack, hspval]; rfl
    have hpushed := Vector.getElem_set_self (xs := s.stack) (x := s.pc + 2) h
    exact htop.trans (hentry.trans hpushed)
  · apply Fin.ext
    show u.sp.val - 1 = s.sp.val
    omega

/-- Settles O60: the jump writes `pc` with its own value, so that the same bytes are fetched again. -/
theorem selfJumpRepeats : Obligations.SelfJumpRepeats := by
  intro s nnn hjump hself
  have hpc : zextAddr nnn = s.pc := BitVec.eq_of_toNat_eq ((zextAddr_toNat nnn).trans hself)
  refine ⟨s.beginStep.setPc (zextAddr nnn), step_of_executes hjump, hpc, ?_, ?_⟩
  · exact ((Frame.refl _ _ s).beginStep List.mem_cons_self).setPc _
  · rw [hpc]
    exact hjump

end Sys2Proof.Machine
end

section
/-! Register ALU (42_register_alu.md): the instructions with a flag, the random byte, and the statements settled. -/

namespace Sys2Proof.Machine

variable {s t : State}

/-- The content of every register instruction with a flag: the flag `f`, of value `n`, goes to VF, then `b` to VX, which
may be VF. -/
theorem exists_next_of_exec_setFlag_setV {i : Instr} {x : Nibble} {f : Bool} {n : Nat} {b : Byte}
    (hn : (flagByte f).toNat = n) (hexec : exec i s = .next ((s.setFlag f).setV x b).nextInstr) {P : State → Prop}
    (hP : ∀ t, (x ≠ 0xF → (t.v 0xF).toNat = n) → t.v x = b → P t) :
    ∃ t, exec i s = .next t ∧ t.pc = s.pc + 2 ∧ Frame [x, 0xF] [] s t ∧ P t := by
  have hflag : Frame [x, 0xF] [] s (s.setFlag f) :=
    (Frame.refl _ _ s).setV (List.mem_cons_of_mem _ List.mem_cons_self) _
  refine ⟨_, hexec, rfl, (hflag.setV List.mem_cons_self b).nextInstr, hP _ (fun hx => ?_) ?_⟩
  · rw [State.nextInstr_v, State.v_setV_other _ b (Ne.symm hx), State.v_setFlag, if_pos rfl, hn]
  · rw [State.nextInstr_v, State.v_setV_same]

/-- An operand as it stands after the flag is written (R26). -/
theorem toNat_v_setFlag (s : State) {f : Bool} {n : Nat} (hn : (flagByte f).toNat = n) (j : Nibble) :
    ((s.setFlag f).v j).toNat = if j = 0xF then n else (s.v j).toNat := by
  rw [State.v_setFlag]
  split
  · exact hn
  · rfl

/-- The four cases of an operation on VX and VY after VF took the value `n`: which operand is VF. -/
theorem operand_cases {x y : Nibble} {n : Nat} (op : Nat → Nat → Nat)
    (h : (t.v x).toNat = op (if x = 0xF then n else (s.v x).toNat) (if y = 0xF then n else (s.v y).toNat)) :
    (x ≠ 0xF → y ≠ 0xF → (t.v x).toNat = op (s.v x).toNat (s.v y).toNat) ∧
    (x ≠ 0xF → y = 0xF → (t.v x).toNat = op (s.v x).toNat n) ∧
    (x = 0xF → y ≠ 0xF → (t.v 0xF).toNat = op n (s.v y).toNat) ∧
    (x = 0xF → y = 0xF → (t.v 0xF).toNat = op n n) := by
  refine ⟨fun hx hy => ?_, fun hx hy => ?_, fun hx hy => ?_, fun hx hy => ?_⟩
  · rw [h, if_neg hx, if_neg hy]
  · rw [h, if_neg hx, if_pos hy]
  · rw [← hx, h, if_pos hx, if_neg hy]
  · rw [← hx, h, if_pos hx, if_pos hy]

theorem flagByte_carryFlag (a b : Byte) :
    (flagByte (carryFlag a b)).toNat = if a.toNat + b.toNat > 255 then 1 else 0 := by
  simp [carryFlag]

theorem flagByte_noBorrowFlag (a b : Byte) :
    (flagByte (noBorrowFlag a b)).toNat = if a.toNat ≥ b.toNat then 1 else 0 := by
  simp [noBorrowFlag]

theorem flagByte_shiftedOutRight (a : Byte) : (flagByte (shiftedOutRight a)).toNat = a.toNat % 2 := by
  rw [flagByte_toNat, shiftedOutRight, BitVec.getLsbD, Nat.testBit_eq_decide_div_mod_eq]
  simp only [decide_eq_true_eq]
  split <;> omega

theorem flagByte_shiftedOutLeft (a : Byte) : (flagByte (shiftedOutLeft a)).toNat = a.toNat / 128 := by
  have ha := a.isLt
  rw [flagByte_toNat, shiftedOutLeft, BitVec.getLsbD, Nat.testBit_eq_decide_div_mod_eq]
  simp only [decide_eq_true_eq]
  split <;> omega

/-- The difference of two bytes, on naturals. -/
theorem toNat_sub_byte (a b : Byte) : (a - b).toNat = (256 + a.toNat - b.toNat) % 256 := by
  rw [BitVec.toNat_sub]
  omega

/-- Settles O23: the operands of the sum are read after VF took the carry (R127). -/
theorem addWithCarry : Obligations.AddWithCarry := by
  rintro s x y f hf
  have hn := (flagByte_carryFlag (s.v x) (s.v y)).trans hf.symm
  refine exists_next_of_exec_setFlag_setV (i := .addReg x y) hn rfl fun t hflag hx => ?_
  have hsum := congrArg BitVec.toNat hx
  rw [BitVec.toNat_add, toNat_v_setFlag s hn, toNat_v_setFlag s hn] at hsum
  obtain ⟨hxy, hxf, hfy, hff⟩ := operand_cases (fun a b => (a + b) % 256) hsum
  refine ⟨hflag, hxy, hxf, hfy, fun h h' => (hff h h').trans ?_⟩
  have : f ≤ 1 := by rw [hf]; split <;> decide
  show (f + f) % 256 = 2 * f
  omega

/-- Settles O24: the operands of the difference are read after VF took the flag, and a difference is modulo 256 (R128,
R130). -/
theorem subtractWithBorrow : Obligations.SubtractWithBorrow := by
  intro s x y
  have hself (n : Nat) : (256 + n - n) % 256 = 0 := by omega
  refine ⟨fun f hf => ?_, fun f hf => ?_⟩
  · have hn := (flagByte_noBorrowFlag (s.v x) (s.v y)).trans hf.symm
    refine exists_next_of_exec_setFlag_setV (i := .subReg x y) hn rfl fun t hflag hx => ?_
    have hdiff := congrArg BitVec.toNat hx
    rw [toNat_sub_byte, toNat_v_setFlag s hn, toNat_v_setFlag s hn] at hdiff
    obtain ⟨hxy, hxf, hfy, hff⟩ := operand_cases (fun a b => (256 + a - b) % 256) hdiff
    exact ⟨hflag, hxy, hxf, hfy, fun h h' => (hff h h').trans (hself f)⟩
  · have hn := (flagByte_noBorrowFlag (s.v y) (s.v x)).trans hf.symm
    refine exists_next_of_exec_setFlag_setV (i := .subnReg x y) hn rfl fun t hflag hx => ?_
    have hdiff := congrArg BitVec.toNat hx
    rw [toNat_sub_byte, toNat_v_setFlag s hn, toNat_v_setFlag s hn] at hdiff
    obtain ⟨hxy, hxf, hfy, hff⟩ := operand_cases (fun a b => (256 + b - a) % 256) hdiff
    exact ⟨hflag, hxy, hxf, hfy, fun h h' => (hff h h').trans (hself f)⟩

theorem exec_shr {x y src : Nibble} (hsrc : shiftSource s.cfg x y = src) : exec (.shr x y) s =
    .next ((s.setFlag (shiftedOutRight (s.v src))).setV x
      ((s.setFlag (shiftedOutRight (s.v src))).v src >>> 1)).nextInstr := by
  rw [← hsrc]
  rfl

theorem exec_shl {x y src : Nibble} (hsrc : shiftSource s.cfg x y = src) : exec (.shl x y) s =
    .next ((s.setFlag (shiftedOutLeft (s.v src))).setV x
      ((s.setFlag (shiftedOutLeft (s.v src))).v src <<< 1)).nextInstr := by
  rw [← hsrc]
  rfl

/-- Settles O25: the source is read after VF took the bit shifted out, and a shift by one halves or doubles (R129,
R131). -/
theorem shiftByOne : Obligations.ShiftByOne := by
  intro s x y src hsrc
  constructor
  · have hn := flagByte_shiftedOutRight (s.v src)
    refine exists_next_of_exec_setFlag_setV hn (exec_shr hsrc.symm) fun t hflag hx => ?_
    have hshift := congrArg BitVec.toNat hx
    rw [BitVec.toNat_ushiftRight, Nat.shiftRight_eq_div_pow, toNat_v_setFlag s hn] at hshift
    refine ⟨hflag, fun h => ?_, fun h => ?_⟩
    · rw [hshift, if_neg h]
    · rw [hshift, if_pos h]; omega
  · have hn := flagByte_shiftedOutLeft (s.v src)
    refine exists_next_of_exec_setFlag_setV hn (exec_shl hsrc.symm) fun t hflag hx => ?_
    have hshift := congrArg BitVec.toNat hx
    rw [BitVec.toNat_shiftLeft, Nat.shiftLeft_eq, toNat_v_setFlag s hn] at hshift
    refine ⟨hflag, fun h => ?_, fun h => ?_⟩
    · rw [hshift, if_neg h]
    · rw [hshift, if_pos h]; omega

theorem exec_rnd (x : Nibble) (nn : Byte) (s : State) :
    exec (.rnd x nn) s = .next (s.drawn.setV x (s.rand &&& nn)).nextInstr := rfl

theorem rand_of_randIn {r : Byte} (h : s.randIn = some r) : s.rand = r := by rw [State.rand, h]; rfl

theorem rand_of_no_randIn (h : s.randIn = none) : s.rand = Config.freeRand s.draws := by rw [State.rand, h]; rfl

/-- Settles O26: VX takes the random input under the mask, and the draw is used up (R132). -/
theorem randomUnderMask : Obligations.RandomUnderMask := by
  intro s x nn
  have hvx : (s.drawn.setV x (s.rand &&& nn)).nextInstr.v x = s.rand &&& nn := by
    rw [State.nextInstr_v, State.v_setV_same]
  refine ⟨_, exec_rnd x nn s, rfl, frame_of_exec (exec_rnd x nn s), fun r hr => ?_, fun hr => ?_, rfl, rfl⟩
  · rw [hvx, rand_of_randIn hr]
  · rw [hvx, rand_of_no_randIn hr]

/-- Settles O27: the host's byte stands on the random input when the `CXNN` of the Step runs (R90, R132). -/
theorem stepDrawsHostByte : Obligations.StepDrawsHostByte := by
  intro s x nn rand h
  have hexec : Executes (s.withRand (some rand)) (.rnd x nn) := h
  have hstep := (step_of_executes hexec).trans (exec_rnd x nn _)
  refine ⟨_, apply_step_of_step hstep, ?_, rfl, ?_⟩
  · rw [State.withRand_v, State.nextInstr_v, State.v_setV_same]
    rfl
  · have hrandom : Part.random ∈ [Part.random, .output] := List.mem_cons_self
    have hstart : Frame [x] [.random, .output] s (s.withRand (some rand)).beginStep :=
      ((Frame.refl _ _ s).withRand hrandom _).beginStep (List.mem_cons_of_mem _ List.mem_cons_self)
    exact (((hstart.drawn hrandom).setV List.mem_cons_self _).nextInstr).withRand hrandom none

end Sys2Proof.Machine
end

section
/-! Index register and memory (43_index_memory.md): the facts each statement rests on, and the statement settled. -/

namespace Sys2Proof.Machine

/-! ### Arithmetic on `I` -/

theorem flagByte_indexOverflowFlag (i : Word) (b : Byte) :
    (flagByte (indexOverflowFlag i b)).toNat = if i.toNat + b.toNat > 0x0FFF then 1 else 0 := by
  simp [indexOverflowFlag]

theorem exec_addI (x : Nibble) (s : State) : exec (.addI x) s =
    .next ((s.setFlag (indexOverflowFlag s.I (s.v x))).setI
      (s.I + zextByte ((s.setFlag (indexOverflowFlag s.I (s.v x))).v x))).nextInstr := rfl

/-- Settles O30: VX is read after VF took the flag, and a sum of words is modulo 65536 (R141). -/
theorem addToIndex : Obligations.AddToIndex := by
  intro s x f hf
  have hn := (flagByte_indexOverflowFlag s.I (s.v x)).trans hf.symm
  have hvf := toNat_v_setFlag s hn 0xF
  rw [if_pos rfl] at hvf
  have hsum := BitVec.toNat_add s.I (zextByte ((s.setFlag (indexOverflowFlag s.I (s.v x))).v x))
  rw [zextByte_toNat, toNat_v_setFlag s hn] at hsum
  refine ⟨_, exec_addI x s, rfl, frame_of_exec (exec_addI x s), hvf, fun h => hsum.trans ?_, fun h => hsum.trans ?_⟩
  · rw [if_neg h]
  · rw [if_pos h]

theorem exec_ldF (x : Nibble) (s : State) : exec (.ldF x) s = .next (s.setI (zextByte (s.v x) * 5)).nextInstr := rfl

/-- Settles O31: VX times 5 is at most 1275, so that the product of words is the product on naturals (R142). -/
theorem glyphAddress : Obligations.GlyphAddress := by
  intro s x
  have hmul : (zextByte (s.v x) * 5).toNat = (s.v x).toNat * 5 := by
    rw [BitVec.toNat_mul, zextByte_toNat]
    show (s.v x).toNat * 5 % 65536 = (s.v x).toNat * 5
    omega
  exact ⟨_, exec_ldF x s, hmul, rfl, frame_of_exec (exec_ldF x s)⟩

theorem indexAfterBlock_toNat (i : Word) (x : Nibble) :
    (indexAfterBlock i x).toNat = (i.toNat + x.toNat + 1) % 65536 := by
  have hx : (x.setWidth 16).toNat = x.toNat := BitVec.toNat_setWidth_of_le (by decide)
  rw [indexAfterBlock, BitVec.toNat_add, BitVec.toNat_add, hx]
  show ((i.toNat + x.toNat) % 65536 + 1) % 65536 = _
  omega

/-! ### Data addresses -/

/-- Settles O35: the reduction of the data address is the only one, and fewer than 4096 consecutive sums stay distinct
(R54, R55). -/
theorem dataAddressWraps : Obligations.DataAddressWraps := fun i k =>
  ⟨ea_toNat i k, fun _ hj hk => ea_injective i (hj.trans (by decide)) (hk.trans (by decide))⟩

theorem ea_ne_ea (i : Word) {j k : Nat} (hj : j < 4096) (hk : k < 4096) (h : j ≠ k) : ea i j ≠ ea i k :=
  fun he => h (ea_injective i hj hk he)

/-! ### `FX33` -/

theorem exec_ldB (x : Nibble) (s : State) : exec (.ldB x) s =
    .next (((s.writeByte (ea s.I 0) (hundreds (s.v x))).writeByte (ea s.I 1) (tens (s.v x))).writeByte (ea s.I 2)
      (ones (s.v x))).nextInstr := rfl

theorem hundreds_toNat (v : Byte) : (hundreds v).toNat = v.toNat / 100 := by
  rw [hundreds, BitVec.toNat_ofNat]
  omega

theorem tens_toNat (v : Byte) : (tens v).toNat = v.toNat / 10 % 10 := by
  rw [tens, BitVec.toNat_ofNat]
  omega

theorem ones_toNat (v : Byte) : (ones v).toNat = v.toNat % 10 := by
  rw [ones, BitVec.toNat_ofNat]
  omega

/-- `FX33` writes only at its three addresses. -/
theorem exec_ldB_readByte_other {x : Nibble} {s t : State} (h : exec (.ldB x) s = .next t) {a : Addr}
    (ha : ∀ k, k < 3 → a ≠ ea s.I k) : t.readByte a = s.readByte a := by
  cases (exec_ldB x s).symm.trans h
  simp only [State.nextInstr_readByte, State.readByte_writeByte, ha 0 (by decide), ha 1 (by decide), ha 2 (by decide),
    if_false]

/-- Settles O32: the three addresses are distinct, so that each keeps the digit written there (R143). -/
theorem decimalDigitsStored : Obligations.DecimalDigitsStored := by
  intro s x
  have h₀₁ := ea_ne_ea s.I (j := 0) (k := 1) (by decide) (by decide) (by decide)
  have h₀₂ := ea_ne_ea s.I (j := 0) (k := 2) (by decide) (by decide) (by decide)
  have h₁₂ := ea_ne_ea s.I (j := 1) (k := 2) (by decide) (by decide) (by decide)
  refine ⟨_, exec_ldB x s, ?_, ?_, ?_, fun a => exec_ldB_readByte_other (exec_ldB x s), rfl,
    frame_of_exec (exec_ldB x s)⟩
  · simp only [State.nextInstr_readByte, State.readByte_writeByte, h₀₁, h₀₂, if_true, if_false, hundreds_toNat]
  · simp only [State.nextInstr_readByte, State.readByte_writeByte, h₁₂, if_true, if_false, tens_toNat]
  · simp only [State.nextInstr_readByte, State.readByte_writeByte, if_true, ones_toNat]

/-! ### `FX55` and `FX65` -/

theorem exec_storeRegs (x : Nibble) (s : State) : exec (.storeRegs x) s =
    .next ((storeBlock s.I (x.toNat + 1) s).setI (indexAfterBlock s.I x)).nextInstr := rfl

theorem exec_loadRegs (x : Nibble) (s : State) : exec (.loadRegs x) s =
    .next ((loadBlock s.I (x.toNat + 1) s).setI (indexAfterBlock s.I x)).nextInstr := rfl

/-- `FX55` writes only at the addresses of V0 to VX. -/
theorem exec_storeRegs_readByte_other {x : Nibble} {s t : State} (h : exec (.storeRegs x) s = .next t) {a : Addr}
    (ha : ∀ k, k ≤ x.toNat → a ≠ ea s.I k) : t.readByte a = s.readByte a := by
  cases (exec_storeRegs x s).symm.trans h
  exact storeBlock_readByte_other s.I _ s a fun k hk => ha k (by omega)

/-- Settles O33: the block stores each register at its own address and nothing elsewhere (R144). -/
theorem registersStored : Obligations.RegistersStored := by
  intro s x
  have hpc : (storeBlock s.I (x.toNat + 1) s).pc + 2 = s.pc + 2 := by rw [storeBlock_pc]
  exact ⟨_, exec_storeRegs x s, fun k hk => storeBlock_readByte s.I _ s (by omega) k (by omega),
    fun a => exec_storeRegs_readByte_other (exec_storeRegs x s), indexAfterBlock_toNat s.I x, hpc,
    frame_of_exec (exec_storeRegs x s)⟩

/-- Settles O34: the block loads each register from its own address and leaves those above VX (R145). -/
theorem registersLoaded : Obligations.RegistersLoaded := by
  intro s x
  have hv (k : Nibble) : ((loadBlock s.I (x.toNat + 1) s).setI (indexAfterBlock s.I x)).nextInstr.v k =
      if k.toNat < x.toNat + 1 then s.readByte (ea s.I k.toNat) else s.v k :=
    loadBlock_v s.I (x.toNat + 1) s (by omega) k
  have hpc : (loadBlock s.I (x.toNat + 1) s).pc + 2 = s.pc + 2 := by rw [loadBlock_pc]
  have hregs : (List.range (x.toNat + 1)).map (BitVec.ofNat 4) ⊆ (List.range 16).map (BitVec.ofNat 4) :=
    List.map_subset _ (List.range_subset.2 (by omega))
  refine ⟨_, exec_loadRegs x s, fun k hk => ?_, fun k hk => ?_, indexAfterBlock_toNat s.I x, hpc,
    (frame_of_exec (exec_loadRegs x s)).mono hregs (List.Subset.refl _)⟩
  · rw [hv, if_pos (by omega)]
  · rw [hv, if_neg (by omega)]

end Sys2Proof.Machine
end

section
/-! Keypad and timers (45_keypad_timers.md), and the host events (46_host_events.md): the statements settled. -/

namespace Sys2Proof.Machine

/-! ### Keys -/

theorem exec_skp (x : Nibble) (s : State) : exec (.skp x) s = .next (s.skipIf (s.keyDown (keyIndex (s.v x)))) := rfl

theorem exec_sknp (x : Nibble) (s : State) : exec (.sknp x) s = .next (s.skipIf (!s.keyDown (keyIndex (s.v x)))) := rfl

/-- Settles O40: the key tested is the one numbered by VX modulo 16 (R160 to R162). -/
theorem keySkips : Obligations.KeySkips := by
  rintro s x k hk rfl
  have hkey : s.keyDown (keyIndex (s.v x)) = s.key[(s.v x).toNat % 16] := by
    simp only [State.keyDown, keyIndex_toNat]
  refine ⟨exists_next_of_exec_skipIf (exec_skp x s) ?_, exists_next_of_exec_skipIf (exec_sknp x s) ?_⟩
  · rw [hkey]
  · rw [hkey, Bool.not_eq_true']

/-- Settles O41: with no key down the first case of `FX0A` answers the state itself; else the key it loads is the least
pressed one, of which there is only one (R163). -/
theorem keyWait : Obligations.KeyWait := by
  intro s x
  rcases execLdVxK_cases x s with ⟨hnone, hexec⟩ | ⟨j, hdown, hleast, hexec⟩
  · refine ⟨fun _ => hexec, fun k hk hpressed _ => ?_⟩
    have hup := hnone (BitVec.ofNat 4 k)
    simp only [State.keyDown, nibble_toNat_lt hk, hpressed] at hup
    cases hup
  · refine ⟨fun hup => absurd (hup j.toNat j.isLt) (by simpa [State.keyDown] using hdown), fun k hk hpressed hbelow => ?_⟩
    have hjk : j.toNat = k := by
      rcases Nat.lt_trichotomy j.toNat k with hlt | heq | hgt
      · have hup := hbelow j.toNat hlt
        simp only [State.keyDown, hup] at hdown
        cases hdown
      · exact heq
      · have hup := hleast (BitVec.ofNat 4 k) (by rwa [nibble_toNat_lt hk])
        simp only [State.keyDown, nibble_toNat_lt hk, hpressed] at hup
        cases hup
    have hvalue : (j.setWidth 8).toNat = k := (BitVec.toNat_setWidth_of_le (by decide)).trans hjk
    exact exists_next_of_exec_setV (i := .ldVxK x) (·.toNat = k) hexec hvalue

/-! ### Timers, keys and programs from the host -/

theorem countDown_toNat (b : Byte) : (countDown b).toNat = b.toNat - 1 := by
  unfold countDown
  split
  case isTrue h => rw [h]; rfl
  case isFalse h => bv_omega

theorem tickEvent_frame (s : State) : Frame [] [.delayTimer, .soundTimer, .output] s s.tickEvent :=
  { Frame.refl [] [.delayTimer, .soundTimer, .output] s with
    sameDelayTimer := absurd (by decide), sameSoundTimer := absurd (by decide), sameOutput := absurd (by decide) }

/-- Settles O43: both timers count down, and the cue tests ST as it was before (R170). -/
theorem tickCountsDown : Obligations.TickCountsDown := by
  intro s
  refine ⟨s.tickEvent, rfl, countDown_toNat s.DT, countDown_toNat s.ST, ?_, rfl, tickEvent_frame s⟩
  show (s.ST == 1) = true ↔ s.ST.toNat = 1
  rw [beq_iff_eq, ← BitVec.toNat_inj]
  rfl

theorem latchKey_frame (s : State) (k : Nibble) (p : Bool) : Frame [] [.keys] s (s.latchKey k p) :=
  { Frame.refl [] [.keys] s with sameKeys := absurd (by decide) }

/-- Settles O44: a write to one latch (R173). -/
theorem setKeyLatchesOne : Obligations.SetKeyLatchesOne := by
  intro s k p
  refine ⟨s.latchKey k p, rfl, ?_, fun j hj => ?_, rfl, latchKey_frame s k p⟩
  · rw [State.keyDown_latchKey, if_pos rfl]
  · rw [State.keyDown_latchKey, if_neg hj]

theorem loadFrom_frame (a : Nat) (bytes : List Byte) (s : State) : Frame [] [.memory] s (loadFrom a bytes s) := by
  rw [loadFrom_eq]
  exact { Frame.refl [] [.memory] s with sameMemory := absurd (by decide) }

theorem loadFrom_pc (a : Nat) (bytes : List Byte) (s : State) : (loadFrom a bytes s).pc = s.pc := by
  rw [loadFrom_eq]

theorem apply_load_of_le (s : State) {bytes : List Byte} (h : bytes.length ≤ 3584) :
    s.apply (.load bytes) = .next (loadFrom 0x200 bytes s) := if_pos h

/-- Settles O45: 3584 bytes from 0x200 on stay below 4096, so that each address is written at most once (R174). -/
theorem loadWritesProgram : Obligations.LoadWritesProgram := by
  intro s bytes
  refine ⟨fun hlen => ⟨_, apply_load_of_le s hlen, fun i hi => ?_, fun a ha => ?_, loadFrom_pc _ _ s,
    loadFrom_frame _ _ s⟩, fun hlen => if_neg (by omega)⟩
  · have haddr : (BitVec.ofNat 12 (0x200 + i)).toNat = 0x200 + i := by
      rw [BitVec.toNat_ofNat]
      omega
    rw [loadFrom_readByte 0x200 bytes s (by omega), dif_pos (by omega)]
    simp only [haddr, Nat.add_sub_cancel_left]
  · rw [loadFrom_readByte 0x200 bytes s (by omega), dif_neg (by omega)]

/-- Settles O52: a Step of a latched machine only clears the outputs and the random input, and no other event but `Reset`
writes the latch, `pc` or a framed part. -/
theorem faultLatchIsSticky : Obligations.FaultLatchIsSticky := by
  intro s r e hr hreset hload
  cases e with
  | reset => exact absurd rfl hreset
  | load bytes =>
    have hframe := loadFrom_frame 0x200 bytes s
    exact ⟨_, apply_load_of_le s (hload bytes rfl), (hframe.sameLatch (by decide)).trans hr, loadFrom_pc _ _ s,
      hframe.mono (List.Subset.refl _) (by decide)⟩
  | step rand =>
    have hlatched : (s.withRand (some rand)).fault = some r := hr
    refine ⟨_, apply_step_of_step (step_of_latched hlatched), hr, rfl, ?_⟩
    exact (((Frame.refl _ _ s).withRand (by decide) _).beginStep (by decide)).withRand (by decide) none
  | tick => exact ⟨_, rfl, hr, rfl, (tickEvent_frame s).mono (List.Subset.refl _) (by decide)⟩
  | setKey k p => exact ⟨_, rfl, hr, rfl, (latchKey_frame s k p).mono (List.Subset.refl _) (by decide)⟩

end Sys2Proof.Machine
end

section
/-! Display (44_display.md): the facts each statement rests on, and the statement settled. -/

namespace Sys2Proof.Machine

variable {s t u : State} {vx vy n px py : Nat}

/-- Settles O36: every cell of the blank display is off (R150). -/
theorem clearDisplay : Obligations.ClearDisplay := by
  intro s
  have hexec : exec .cls s = .next (s.setDisp Display.blank).nextInstr := rfl
  exact ⟨_, hexec, fun px py _ _ => Display.pixel_blank px py, rfl, rfl, frame_of_exec hexec⟩

/-! ### What a sprite covers -/

theorem spriteCovers_ea : SpriteCovers s vx vy n px py ↔
    ∃ row col, row < n ∧ col < 8 ∧ (s.readByte (ea s.I row)).getLsbD (7 - col) = true ∧
      (vx + col) % 64 = px ∧ (vy + row) % 32 = py := by
  have hea (row : Nat) : BitVec.ofNat 12 ((s.I.toNat + row) % 4096) = ea s.I row :=
    BitVec.eq_of_toNat_eq (by simp)
  simp only [SpriteCovers, hea]

/-- The same sprite covers the same cells. -/
theorem spriteCovers_congr (hI : u.I = s.I) (hbytes : ∀ k, k < n → u.readByte (ea s.I k) = s.readByte (ea s.I k)) :
    SpriteCovers u vx vy n px py ↔ SpriteCovers s vx vy n px py := by
  rw [spriteCovers_ea, spriteCovers_ea, hI]
  constructor <;> rintro ⟨row, col, hrow, hcol, hbit, hcell⟩
  · exact ⟨row, col, hrow, hcol, hbytes row hrow ▸ hbit, hcell⟩
  · exact ⟨row, col, hrow, hcol, (hbytes row hrow).symm ▸ hbit, hcell⟩

/-- A sprite with a set bit covers a cell. -/
theorem exists_spriteCovers_of_ne_zero {k : Nat} (hk : k < n) (hne : s.readByte (ea s.I k) ≠ 0) :
    ∃ px py, px < 64 ∧ py < 32 ∧ SpriteCovers s vx vy n px py := by
  have hbit : ∃ b, b < 8 ∧ (s.readByte (ea s.I k)).getLsbD b = true := by
    by_contra hall
    push Not at hall
    refine hne (BitVec.eq_of_getLsbD_eq fun b hb => ?_)
    simpa using hall b hb
  obtain ⟨b, hb, hset⟩ := hbit
  refine ⟨(vx + (7 - b)) % 64, (vy + k) % 32, Nat.mod_lt _ (by decide), Nat.mod_lt _ (by decide), ?_⟩
  refine spriteCovers_ea.2 ⟨k, 7 - b, hk, by omega, ?_, rfl, rfl⟩
  rwa [show 7 - (7 - b) = b by omega]

/-- A sprite without a set bit covers none. -/
theorem not_spriteCovers_of_zero (hzero : ∀ k, k < n → s.readByte (ea s.I k) = 0) :
    ¬ SpriteCovers s vx vy n px py := by
  rw [spriteCovers_ea]
  rintro ⟨row, col, hrow, -, hbit, -⟩
  simp [hzero row hrow] at hbit

/-! ### What a draw does -/

theorem drawSprite_pixel_of_covers (hn : n ≤ 32) (hx : px < 64) (hy : py < 32) (h : SpriteCovers s vx vy n px py) :
    (drawSprite s vx vy n).disp.pixel px py = !s.pixel px py := by
  rcases (drawSprite_spec s vx vy n hn).1 px py with ⟨hpixel, -⟩ | ⟨-, hnot⟩
  · exact hpixel
  · exact absurd ((spriteCovers_iff s vx vy n hx hy).1 h) hnot

theorem drawSprite_pixel_of_not_covers (hn : n ≤ 32) (hx : px < 64) (hy : py < 32)
    (h : ¬ SpriteCovers s vx vy n px py) : (drawSprite s vx vy n).disp.pixel px py = s.pixel px py := by
  rcases (drawSprite_spec s vx vy n hn).1 px py with ⟨-, hcovers⟩ | ⟨hpixel, -⟩
  · exact absurd ((spriteCovers_iff s vx vy n hx hy).2 hcovers) h
  · exact hpixel

/-- The sprite covers a cell on the display that is at the level `b`. -/
def CoversCellAt (s : State) (vx vy n : Nat) (b : Bool) : Prop :=
  ∃ px py, px < 64 ∧ py < 32 ∧ SpriteCovers s vx vy n px py ∧ s.pixel px py = b

theorem drawSprite_collision (hn : n ≤ 32) :
    (drawSprite s vx vy n).collision = true ↔ CoversCellAt s vx vy n true := by
  rw [(drawSprite_spec s vx vy n hn).2]
  constructor <;> rintro ⟨px, py, hx, hy, hcovers, hon⟩
  · exact ⟨px, py, hx, hy, (spriteCovers_iff s vx vy n hx hy).2 hcovers, hon⟩
  · exact ⟨px, py, hx, hy, (spriteCovers_iff s vx vy n hx hy).1 hcovers, hon⟩

theorem exec_drw (x y n : Nibble) (s : State) : exec (.drw x y n) s =
    .next ((s.setDisp (drawSprite s (s.v x).toNat (s.v y).toNat n.toNat).disp).setFlag
      (drawSprite s (s.v x).toNat (s.v y).toNat n.toNat).collision).nextInstr := rfl

/-- Settles O37: the rows of a sprite toggle exactly the cells they cover, each once (R151). -/
theorem spriteTogglesCoveredCells : Obligations.SpriteTogglesCoveredCells := by
  intro s x y n
  have hn : n.toNat ≤ 32 := by omega
  exact ⟨_, exec_drw x y n s, rfl, frame_of_exec (exec_drw x y n s), rfl, fun px py hx hy =>
    ⟨drawSprite_pixel_of_covers hn hx hy, drawSprite_pixel_of_not_covers hn hx hy⟩⟩

theorem exec_drw_disp {x y n : Nibble} (h : exec (.drw x y n) s = .next t) :
    t.disp = (drawSprite s (s.v x).toNat (s.v y).toNat n.toNat).disp := by
  cases (exec_drw x y n s).symm.trans h
  rfl

/-- VF after a draw. -/
theorem exec_drw_flag {x y n : Nibble} (h : exec (.drw x y n) s = .next t) :
    (CoversCellAt s (s.v x).toNat (s.v y).toNat n.toNat true → t.v 0xF = 1) ∧
    (¬ CoversCellAt s (s.v x).toNat (s.v y).toNat n.toNat true → t.v 0xF = 0) := by
  cases (exec_drw x y n s).symm.trans h
  rw [State.nextInstr_v, State.v_setFlag, if_pos rfl, ← drawSprite_collision (by omega)]
  cases (drawSprite s (s.v x).toNat (s.v y).toNat n.toNat).collision
  · exact ⟨fun h => Bool.noConfusion h, fun _ => rfl⟩
  · exact ⟨fun _ => rfl, fun h => absurd rfl h⟩

/-- Settles O38: the collision of a sprite is noted exactly where a covered cell was on (R151). -/
theorem spriteCollisionFlag : Obligations.SpriteCollisionFlag := fun s x y n =>
  ⟨_, exec_drw x y n s, exec_drw_flag (exec_drw x y n s)⟩

/-! ### The law of the double draw (R152) -/

/-- A second draw of the same sprite on what the first left: the display is restored, and a covered cell is on between the
two exactly where it was off before the first. -/
theorem drawSprite_drawSprite (hn : n ≤ 32) (hdisp : u.disp = (drawSprite s vx vy n).disp) (hI : u.I = s.I)
    (hbytes : ∀ k, k < n → u.readByte (ea s.I k) = s.readByte (ea s.I k)) :
    (drawSprite u vx vy n).disp = s.disp ∧ (CoversCellAt u vx vy n true ↔ CoversCellAt s vx vy n false) := by
  have hcovers {px py : Nat} := spriteCovers_congr (vx := vx) (vy := vy) (px := px) (py := py) hI hbytes
  have hpixel (px py : Nat) : u.pixel px py = (drawSprite s vx vy n).disp.pixel px py := congrArg (·.pixel px py) hdisp
  constructor
  · apply Display.ext_pixel
    intro px py hx hy
    by_cases h : SpriteCovers s vx vy n px py
    · rw [drawSprite_pixel_of_covers hn hx hy (hcovers.2 h), hpixel, drawSprite_pixel_of_covers hn hx hy h,
        Bool.not_not]
      rfl
    · rw [drawSprite_pixel_of_not_covers hn hx hy (mt hcovers.1 h), hpixel,
        drawSprite_pixel_of_not_covers hn hx hy h]
      rfl
  · constructor <;> rintro ⟨px, py, hx, hy, h, hlevel⟩ <;> refine ⟨px, py, hx, hy, ?_, ?_⟩
    · exact hcovers.1 h
    · simpa [hpixel, drawSprite_pixel_of_covers hn hx hy (hcovers.1 h)] using hlevel
    · exact hcovers.2 h
    · rw [hpixel, drawSprite_pixel_of_covers hn hx hy h, hlevel]
      rfl

/-- Settles O39: the second draw toggles the same cells back; the clauses on VF are its collision, a cell covered and off
before the first draw. -/
theorem doubleDrawRestores : Obligations.DoubleDrawRestores := by
  intro s t u x y n hfirst hdisp hI hx hy hbytes
  have hn : n.toNat ≤ 32 := by omega
  obtain ⟨v, hsecond, -⟩ := exec_writes (.drw x y n) u
  obtain ⟨hrestored, hcell⟩ := drawSprite_drawSprite hn (hdisp.trans (exec_drw_disp hfirst)) hI hbytes
  obtain ⟨hone, hzero⟩ := exec_drw_flag hsecond
  have hv := exec_drw_disp hsecond
  rw [hx, hy] at hone hzero hv
  rw [hcell] at hone hzero
  refine ⟨v, hsecond, hv.trans hrestored, hone, hzero, fun hblank => ?_, fun hclear => ?_⟩
  · rintro ⟨k, hk, hne⟩
    obtain ⟨px, py, hpx, hpy, hcovers⟩ := exists_spriteCovers_of_ne_zero hk hne
    exact hone ⟨px, py, hpx, hpy, hcovers, hblank px py⟩
  · refine hzero ?_
    rintro ⟨px, py, -, -, hcovers, -⟩
    exact not_spriteCovers_of_zero hclear hcovers

end Sys2Proof.Machine
end

section
/-! What only some instructions do (10_state.md): the statements settled. -/

namespace Sys2Proof.Machine

variable {s t : State}

/-- A Step that changes a part other than the latch and the outputs executes an instruction that writes it. -/
theorem executes_of_part_changed {p : Part} (h : step s = .next t) (hp : p ∉ [Part.latch, .output])
    (hchange : ∀ {regs parts}, Frame regs parts s t → p ∈ parts) : ∃ i, Executes s i ∧ p ∈ partsWritten i := by
  rcases step_frame h with hframe | ⟨i, hi, hframe⟩
  · exact absurd (hchange hframe) hp
  · have hne : p ≠ .output := fun heq => hp (heq ▸ List.mem_cons_of_mem _ List.mem_cons_self)
    exact ⟨i, hi, List.mem_of_ne_of_mem hne (hchange hframe)⟩

/-- A Step that changes a register executes an instruction that writes it. -/
theorem executes_of_v_ne {r : Nibble} (h : step s = .next t) (hne : t.v r ≠ s.v r) :
    ∃ i, Executes s i ∧ r ∈ regsWritten i := by
  rcases step_frame h with hframe | ⟨i, hi, hframe⟩
  · exact absurd (hframe.sameRegs r (List.not_mem_nil)) hne
  · exact ⟨i, hi, by_contra fun hnot => hne (hframe.sameRegs r hnot)⟩

/-- Settles O55: only `00EE` and `2NNN` write the stack. -/
theorem onlyCallAndReturnTouchStack : Obligations.OnlyCallAndReturnTouchStack := by
  intro s t h hdiff
  obtain ⟨i, hi, hpart⟩ := executes_of_part_changed (p := .stack) h (by decide) fun hframe => by_contra fun hnot =>
    hdiff.elim (fun hsp => hsp (hframe.sameStack hnot).1) fun hstack => hstack (hframe.sameStack hnot).2
  rcases stack_mem_partsWritten.1 hpart with rfl | ⟨nnn, rfl⟩
  · exact .inl hi
  · exact .inr ⟨nnn, hi⟩

/-- Settles O56: only `FX33` and `FX55` write memory, and neither at an address that it does not store to. -/
theorem onlyStoresWriteMemory : Obligations.OnlyStoresWriteMemory := by
  intro s t a h hne
  obtain ⟨i, hi, hpart⟩ := executes_of_part_changed (p := .memory) h (by decide) fun hframe => by_contra fun hnot =>
    hne (hframe.sameMemory hnot a)
  have hexec := (step_of_executes hi).symm.trans h
  rcases memory_mem_partsWritten.1 hpart with ⟨x, rfl⟩ | ⟨x, rfl⟩
  · left
    by_contra hnone
    exact hne (exec_ldB_readByte_other hexec fun k hk ha => hnone ⟨x, k, hi, hk, ha⟩)
  · right
    by_contra hnone
    exact hne (exec_storeRegs_readByte_other hexec fun k hk ha => hnone ⟨x, k, hi, hk, ha⟩)

/-- Settles O57: only `00E0` and `DXYN` write the display. -/
theorem onlyDisplayWritersTouchDisplay : Obligations.OnlyDisplayWritersTouchDisplay := by
  intro s t h hne
  obtain ⟨i, hi, hpart⟩ := executes_of_part_changed (p := .display) h (by decide) fun hframe => by_contra fun hnot =>
    hne (hframe.sameDisplay hnot)
  rcases display_mem_partsWritten.1 hpart with rfl | ⟨x, y, n, rfl⟩
  · exact .inl hi
  · exact .inr ⟨x, y, n, hi⟩

/-- Settles O58: no instruction writes a key latch, and one each writes DT and ST. -/
theorem stepLeavesKeysAndTimers : Obligations.StepLeavesKeysAndTimers := by
  intro s t h
  refine ⟨?_, fun hne => ?_, fun hne => ?_⟩
  · by_contra hne
    obtain ⟨i, -, hpart⟩ := executes_of_part_changed (p := .keys) h (by decide) fun hframe => by_contra fun hnot =>
      hne (hframe.sameKeys hnot)
    exact keys_not_mem_partsWritten i hpart
  · obtain ⟨i, hi, hpart⟩ := executes_of_part_changed (p := .delayTimer) h (by decide) fun hframe =>
      by_contra fun hnot => hne (hframe.sameDelayTimer hnot)
    obtain ⟨x, rfl⟩ := delayTimer_mem_partsWritten.1 hpart
    exact ⟨x, hi⟩
  · obtain ⟨i, hi, hpart⟩ := executes_of_part_changed (p := .soundTimer) h (by decide) fun hframe =>
      by_contra fun hnot => hne (hframe.sameSoundTimer hnot)
    obtain ⟨x, rfl⟩ := soundTimer_mem_partsWritten.1 hpart
    exact ⟨x, hi⟩

theorem toNat_le_of_mem_regsWritten_loadRegs {x r : Nibble} (h : r ∈ regsWritten (.loadRegs x)) :
    r.toNat ≤ x.toNat := by
  obtain ⟨k, hk, rfl⟩ := List.mem_map.1 h
  have hlt := List.mem_range.1 hk
  rw [BitVec.toNat_ofNat]
  omega

/-- Settles O59: VF is among the registers written by a flag writer, and else only where a written register is VF. -/
theorem flagRegisterWriters : Obligations.FlagRegisterWriters := by
  intro s t h hne
  obtain ⟨i, hi, hreg⟩ := executes_of_v_ne h hne
  refine ⟨i, hi, ?_⟩
  cases i
  case addReg | subReg | shr | subnReg | shl | addI | drw => simp
  case ldImm | addImm | ldReg | orReg | andReg | xorReg | rnd | ldVxDt | ldVxK =>
    obtain rfl := List.mem_singleton.1 hreg
    simp
  case loadRegs x =>
    obtain rfl : x = 0xF := by
      have hle := toNat_le_of_mem_regsWritten_loadRegs hreg
      bv_omega
    simp
  all_goals exact absurd hreg List.not_mem_nil

end Sys2Proof.Machine
end
